-- ==== Sys2Proof/Word.lean ====
section
/-! DEFINITION. The words of the block: a byte (00_scope §6, 20_memory R31) and the 16-bit value of the
Checksum Engine (40_crc R70). -/

namespace Sys2Proof

/-- An unsigned 8-bit value (00_scope §6). -/
abbrev Byte := BitVec 8

/-- The 16-bit value the Checksum Engine works on (40_crc R70). -/
abbrev CrcWord := BitVec 16

end Sys2Proof
end

