-- ==== Sys2Proof/Machine/Crc.lean ====
section
/-! DEFINITION. The Checksum Engine's functions (40_crc R70 to R73). -/

namespace Sys2Proof

/-- `POLY` (00_scope R6). -/
def crcPoly : CrcWord := 0x1021

/-- `CRC_INIT` (00_scope R6). -/
def crcInit : CrcWord := 0x0000

/-- `crc_round` (R71). -/
def crcRound (c : CrcWord) : CrcWord :=
  if c.getLsbD 15 then (c <<< 1) ^^^ crcPoly else c <<< 1

/-- `n` rounds. -/
def crcRounds : Nat → CrcWord → CrcWord
  | 0, c => c
  | n + 1, c => crcRounds n (crcRound c)

/-- `crc_update` (R72): the byte enters bits 15:8, then eight rounds. -/
def crcUpdate (c : CrcWord) (b : Byte) : CrcWord :=
  crcRounds 8 (c ^^^ (b ++ (0 : BitVec 8)))

/-- The CRC of a whole byte sequence: R73 with no range. -/
def crcOf (bytes : List Byte) : CrcWord := bytes.foldl crcUpdate crcInit

/-- The bytes of `bytes` at offsets `s` to `e - 1` (00_scope §6, `buf[s..e)`). -/
def slice (bytes : List Byte) (s e : Nat) : List Byte := (bytes.drop s).take (e - s)

/-- `crc16(bytes, s, e)` (R73): no result outside 0 ≤ s ≤ e ≤ len(bytes) (U1, D16). -/
def crc16 (bytes : List Byte) (s e : Nat) : Option CrcWord :=
  if s ≤ e ∧ e ≤ bytes.length then some (crcOf (slice bytes s e)) else none

/-- One step of the bit-serial form (R78), for the input bit `d`. -/
def crcSerialStep (c : CrcWord) (d : Bool) : CrcWord :=
  if (c.getLsbD 15).xor d then (c <<< 1) ^^^ crcPoly else c <<< 1

/-- The bit-serial form for one byte, most significant bit first (R78). -/
def crcSerialUpdate (c : CrcWord) (b : Byte) : CrcWord :=
  [7, 6, 5, 4, 3, 2, 1, 0].foldl (fun c i => crcSerialStep c (b.getLsbD i)) c

/-- The high byte of a 16-bit value, `v[15:8]`. -/
def highByte (v : CrcWord) : Byte := v.extractLsb' 8 8

/-- The low byte of a 16-bit value, `v[7:0]`. -/
def lowByte (v : CrcWord) : Byte := v.extractLsb' 0 8

end Sys2Proof
end

