-- ==== Sys2Proof/Config.lean ====
section
/-! DEFINITION. What an implementation fixes (00_scope R5) and the one free value of the model. -/

namespace Sys2Proof

/-- The parameters of 00_scope R5. They do not change while the block runs (10_state R23); the model carries
them in `State.cfg`, as arguments (log entry 1). `LENW` is derived: `Config.lenW`. -/
structure Config where
  /-- `MAXLEN`: capacity of the frame buffer in bytes, at least 21 -/
  maxLen : Nat
  /-- `TIMEW`: width in bits of the time sample `now`, at least 1 -/
  timeW : Nat
  /-- `EXT22`: protocol number 0x22 also maps to Gps -/
  ext22 : Bool
  deriving DecidableEq, Repr

namespace Config

/-- DESIGN CHOICE (log entry 1): the values 00_scope R5 suggests (`MAXLEN` 1024, `TIMEW` 64) and its baseline
`EXT22 = 0`; they stand in `State.reset` only. -/
def suggested : Config := { maxLen := 1024, timeW := 64, ext22 := false }

/-- The bounds R5 puts on the parameters. -/
abbrev wf (c : Config) : Prop := 21 ≤ c.maxLen ∧ 1 ≤ c.timeW

/-- `LENW`, "the least w with 2^w > MAXLEN" (00_scope R5). -/
def lenW (c : Config) : Nat := Nat.log2 c.maxLen + 1

/-- FREE VALUE (93_implementation_defined U3, log entry 11): the character that digit `k` of the IMEI register
`bcd` has in the IMEI string when that digit exceeds 9. The spec states nothing of it. -/
opaque nondecChar : BitVec 64 → Nat → Char

end Config

end Sys2Proof
end

