-- ==== Sys2Proof/Syntax.lean ====
section
/-! DEFINITION. The instructions: one constructor per row of spec/opcode_table.json, and the forms in which they
stand on the block's ports. -/

namespace Sys2Proof

/-- The three bytes of a frame before its protocol number (30_encoding R50). The block examines none of them
(R51), but they are part of the delivery. -/
structure Header where
  start0 : Byte
  start1 : Byte
  lengthByte : Byte
  deriving DecidableEq, Repr

/-- The rows of spec/opcode_table.json.

A row of format IN is a class of delivery (00_scope R7): the instruction is the delivery of that frame. `rest` is
the bytes at offsets 4 to flen-1, `now` the time sample of the delivery. The rows of format OUT are the frames
the Response Policy formats; those of format EVENT are the events. -/
inductive Instr where
  /-- SHORT (41_frame_parser R81): a delivery of fewer than four bytes -/
  | short (buf : List Byte) (now : Nat)
  /-- LOGIN (R83): byte 3 is 0x01 -/
  | login (hdr : Header) (rest : List Byte) (now : Nat)
  /-- GPS (R85): byte 3 is 0x12 -/
  | gps (hdr : Header) (rest : List Byte) (now : Nat)
  /-- STATUS (R88): byte 3 is 0x13 -/
  | status (hdr : Header) (rest : List Byte) (now : Nat)
  /-- ALARM (R89): byte 3 is 0x16 -/
  | alarm (hdr : Header) (rest : List Byte) (now : Nat)
  /-- HEARTBEAT (R90): byte 3 is 0x26 -/
  | heartbeat (hdr : Header) (rest : List Byte) (now : Nat)
  /-- GPS_EXT22 (R92): byte 3 is 0x22; what it does depends on the parameter EXT22 (log entry 5) -/
  | gpsExt22 (hdr : Header) (rest : List Byte) (now : Nat)
  /-- UNKNOWN (R91): byte 3 is any other value -/
  | unknown (hdr : Header) (protocol : Byte) (rest : List Byte) (now : Nat)
  /-- ACK_LOGIN (42_response R101): the Login acknowledgment with these serial bytes -/
  | ackLogin (serialHigh serialLow : Byte)
  /-- ACK_HEARTBEAT (R103) -/
  | ackHeartbeat
  /-- CRC.UPD (40_crc R75) -/
  | crcUpd (b : Byte)
  /-- CRC.CLR (R74) -/
  | crcClr
  /-- DELIVER (43_session R110): a delivery not yet classified -/
  | deliver (buf : List Byte) (now : Nat)
  /-- RESET (70_reset_and_hazards R140) -/
  | reset
  deriving DecidableEq, Repr

/-- What the environment can issue to the block (00_scope R7, 43_session R115, 70 R140). -/
inductive PortEvent where
  | deliver (buf : List Byte) (now : Nat)
  | crcUpd (b : Byte)
  | crcClr
  | reset
  deriving DecidableEq, Repr

/-- How an instruction stands at the boundary of the block: as an event of the environment (its inbound side) or
as the bytes of an outbound frame. -/
inductive Wire where
  | event (e : PortEvent)
  | response (bytes : List Byte)
  deriving DecidableEq, Repr

end Sys2Proof
end

