-- ==== Sys2Proof/WellFormed.lean ====
section
/-! DEFINITION. When an instruction exists: its row's condition in spec/opcode_table.json (`Instr.wf`), and the
widths the parameters give its operands (`Instr.fits`). -/

namespace Sys2Proof

/-- Is the byte a protocol number with a row of its own (30_encoding R52, R53)? -/
def isRowProtocol (t : Byte) : Bool :=
  t == 0x01 || t == 0x12 || t == 0x13 || t == 0x16 || t == 0x26 || t == 0x22

namespace Instr

/-- The row's own condition: SHORT needs flen < 4; UNKNOWN needs that "no row of priority 1 matches". Every other
constructor carries its condition in its form. -/
def wf : Instr → Bool
  | .short buf _ => decide (buf.length < 4)
  | .unknown _ t _ _ => !isRowProtocol t
  | .login _ _ _ => true
  | .gps _ _ _ => true
  | .status _ _ _ => true
  | .alarm _ _ _ => true
  | .heartbeat _ _ _ => true
  | .gpsExt22 _ _ _ => true
  | .ackLogin _ _ => true
  | .ackHeartbeat => true
  | .crcUpd _ => true
  | .crcClr => true
  | .deliver _ _ => true
  | .reset => true

end Instr

/-- A delivery the parameters admit: at most MAXLEN bytes (70 R147) and a TIMEW-bit sample (43_session R110). -/
def deliveryFits (c : Config) (len now : Nat) : Bool := decide (len ≤ c.maxLen) && decide (now < 2 ^ c.timeW)

/-- The operands of the instruction fit the parameters. -/
def Instr.fits (c : Config) : Instr → Bool
  | .short buf now => deliveryFits c buf.length now
  | .login _ rest now => deliveryFits c (rest.length + 4) now
  | .gps _ rest now => deliveryFits c (rest.length + 4) now
  | .status _ rest now => deliveryFits c (rest.length + 4) now
  | .alarm _ rest now => deliveryFits c (rest.length + 4) now
  | .heartbeat _ rest now => deliveryFits c (rest.length + 4) now
  | .gpsExt22 _ rest now => deliveryFits c (rest.length + 4) now
  | .unknown _ _ rest now => deliveryFits c (rest.length + 4) now
  | .deliver buf now => deliveryFits c buf.length now
  | .ackLogin _ _ => true
  | .ackHeartbeat => true
  | .crcUpd _ => true
  | .crcClr => true
  | .reset => true

/-- The event is one the environment may issue (43_session R115): only a delivery is bounded. -/
def PortEvent.fits (c : Config) : PortEvent → Bool
  | .deliver buf now => deliveryFits c buf.length now
  | .crcUpd _ => true
  | .crcClr => true
  | .reset => true

end Sys2Proof
end

