-- ==== Sys2Proof/Decode.lean ====
section
/-! DEFINITION. The decoder, total on any bytes, and after it the encoder, both from 30_encoding and
spec/opcode_table.json. -/

namespace Sys2Proof

/-! ### Constants of the encodings (00_scope R6, 30_encoding R52) -/

def protoLogin : Byte := 0x01
def protoGps : Byte := 0x12
def protoStatus : Byte := 0x13
def protoAlarm : Byte := 0x16
def protoHeartbeat : Byte := 0x26
def protoGpsExt22 : Byte := 0x22

/-- `HB_ACK` (00_scope R6, 30_encoding R61): nine bytes, kept exactly as the literal (90_conflicts C1, C6). -/
def hbAck : List Byte := [0x78, 0x78, 0x05, 0x13, 0x00, 0x01, 0x9D, 0x0D, 0x0A]

/-- Why bytes are no outbound frame of the block. -/
inductive Reject where
  /-- neither the ACK_LOGIN pattern (30_encoding R60) nor the ACK_HEARTBEAT literal (R61) -/
  | notAResponse
  /-- the ACK_LOGIN pattern with checksum bytes that are not `crc16` of bytes 2 to 5 (R60) -/
  | wrongChecksum
  deriving DecidableEq, Repr

/-! ### Decoding -/

/-- The length dispatch and the type dispatch of a delivery: the IN rows of the opcode table. Total: no inbound
encoding is illegal (30_encoding R63). Offsets 0 to 2 are kept and not examined (R51); 0x22 has its own
constructor whatever EXT22 is (log entry 5). -/
def decodeFrame (buf : List Byte) (now : Nat) : Instr :=
  match buf with
  | b0 :: b1 :: b2 :: t :: rest =>
    if t = protoLogin then .login ⟨b0, b1, b2⟩ rest now
    else if t = protoGps then .gps ⟨b0, b1, b2⟩ rest now
    else if t = protoStatus then .status ⟨b0, b1, b2⟩ rest now
    else if t = protoAlarm then .alarm ⟨b0, b1, b2⟩ rest now
    else if t = protoHeartbeat then .heartbeat ⟨b0, b1, b2⟩ rest now
    else if t = protoGpsExt22 then .gpsExt22 ⟨b0, b1, b2⟩ rest now
    else .unknown ⟨b0, b1, b2⟩ t rest now
  | _ => .short buf now

/-- An outbound frame: ACK_LOGIN (30_encoding R60) or ACK_HEARTBEAT (R61). The block itself never decodes its
output (90_conflicts C6); this reads the OUT rows of the opcode table. -/
def decodeAck (bytes : List Byte) : Except Reject Instr :=
  if bytes = hbAck then .ok .ackHeartbeat
  else match bytes with
    | [m0, m1, n, t, h, l, ch, cl, e0, e1] =>
      if m0 = 0x78 ∧ m1 = 0x78 ∧ n = 0x05 ∧ t = 0x01 ∧ e0 = 0x0D ∧ e1 = 0x0A then
        if ch ++ cl = crcOf [n, t, h, l] then .ok (.ackLogin h l) else .error .wrongChecksum
      else .error .notAResponse
    | _ => .error .notAResponse

/-- The instruction an event of the environment is: a delivery is decoded by the rows SHORT to UNKNOWN. -/
def decodeEvent : PortEvent → Instr
  | .deliver buf now => decodeFrame buf now
  | .crcUpd b => .crcUpd b
  | .crcClr => .crcClr
  | .reset => .reset

/-- The decoder. -/
def decode : Wire → Except Reject Instr
  | .event e => .ok (decodeEvent e)
  | .response bytes => decodeAck bytes

/-! ### Encoding -/

/-- The bytes of a frame with this header, protocol number and remainder (30_encoding R50). -/
def frameBytes (hdr : Header) (protocol : Byte) (rest : List Byte) : List Byte :=
  hdr.start0 :: hdr.start1 :: hdr.lengthByte :: protocol :: rest

/-- The ten bytes of ACK_LOGIN (30_encoding R60). -/
def ackLoginBytes (h l : Byte) : List Byte :=
  let v := crcOf [0x05, 0x01, h, l]
  [0x78, 0x78, 0x05, 0x01, h, l, highByte v, lowByte v, 0x0D, 0x0A]

/-- The encoder. DELIVER has no bit encoding of its own (opcode table): it is the event that carries its bytes. -/
def encode : Instr → Wire
  | .short buf now => .event (.deliver buf now)
  | .login hdr rest now => .event (.deliver (frameBytes hdr protoLogin rest) now)
  | .gps hdr rest now => .event (.deliver (frameBytes hdr protoGps rest) now)
  | .status hdr rest now => .event (.deliver (frameBytes hdr protoStatus rest) now)
  | .alarm hdr rest now => .event (.deliver (frameBytes hdr protoAlarm rest) now)
  | .heartbeat hdr rest now => .event (.deliver (frameBytes hdr protoHeartbeat rest) now)
  | .gpsExt22 hdr rest now => .event (.deliver (frameBytes hdr protoGpsExt22 rest) now)
  | .unknown hdr t rest now => .event (.deliver (frameBytes hdr t rest) now)
  | .ackLogin h l => .response (ackLoginBytes h l)
  | .ackHeartbeat => .response hbAck
  | .crcUpd b => .event (.crcUpd b)
  | .crcClr => .event .crcClr
  | .deliver buf now => .event (.deliver buf now)
  | .reset => .event .reset

/-- The instruction a DELIVER dispatches to (00_scope R7); every other instruction is itself. -/
def Instr.classified : Instr → Instr
  | .deliver buf now => decodeFrame buf now
  | i => i

/-! ### The words of the opcode table (log entry 4) -/

/-- The `n` bytes of the number `w`, most significant first: the table reads a frame's bytes as one number with
offset 0 most significant. -/
def wordBytes : Nat → Nat → List Byte
  | 0, _ => []
  | n + 1, w => BitVec.ofNat 8 (w >>> (8 * n)) :: wordBytes n w

/-- Where the `nbits` bits of a row stand: eight bits are the operand of CRC.UPD, the only 8-bit row; 72 and 80
bits are the outbound frames; any other number of bytes is a delivery of exactly those bytes. -/
def tableWire (nbits w : Nat) : Wire :=
  if nbits = 8 then .event (.crcUpd (BitVec.ofNat 8 w))
  else if nbits = 72 ∨ nbits = 80 then .response (wordBytes (nbits / 8) w)
  else .event (.deliver (wordBytes (nbits / 8) w) 0)

/-- The instruction the decoder reads from a word of the opcode table. -/
def decodeTableWord (nbits w : Nat) : Option Instr :=
  match decode (tableWire nbits w) with
  | .ok i => some i
  | .error _ => none

/-- The event that makes the block run what the wire form stands for. An event is itself; an outbound frame runs
inside a delivery only (42_response R100), so it is reached by a delivery that it answers: a Heartbeat frame, or a
Login frame with the same two serial bytes. -/
def eventFor : Wire → PortEvent
  | .event e => e
  | .response bytes =>
    match decodeAck bytes with
    | .ok (.ackLogin h l) => .deliver (frameBytes ⟨0x78, 0x78, 0x05⟩ protoLogin [h, l, 0x00, 0x00, 0x0D, 0x0A]) 0
    | .ok .ackHeartbeat => .deliver (frameBytes ⟨0x78, 0x78, 0x05⟩ protoHeartbeat []) 0
    | _ => .deliver bytes 0

end Sys2Proof
end

