-- ==== Sys2Proof/Machine/State.lean ====
section
/-! DEFINITION. The state of the block (10_state R10), as plain data, its reset values (R26), and the reasons a
step can stop. -/

namespace Sys2Proof.Machine

/-- The block raises nothing past its boundary and has no failure outcome (60_exceptions R126, 43_session R110):
there is no fault. -/
inductive Fault where
  deriving DecidableEq, Repr

/-- Why an instruction has no next state. Every one of them is safe: the model stops where the spec gives no
step. -/
inductive Refusal where
  /-- Raised by an arm of `exec` that has no meaning yet; no arm is left so. Safe. -/
  | notModelled (mnemonic : String)
  /-- Raised by a delivery of more than MAXLEN bytes: "The spec gives it no meaning: `refuse`" (70 R147, U2).
  Safe. -/
  | deliveryTooLong
  /-- Raised by a delivery whose time sample is no TIMEW-bit value (43_session R110; log entry 9). Safe. -/
  | sampleTooWide
  /-- Raised by SHORT on four bytes or more and by UNKNOWN on a protocol number that has a row of its own: the
  row's condition in the opcode table is not met (log entry 10). The decoder never gives such an instruction.
  Safe. -/
  | rowConditionNotMet
  /-- Raised by a read of an FB cell that holds no value: "a read of one is a modelling error, to be treated as
  `refuse`" (10_state R13, U15). No delivery makes one. Safe. -/
  | cellWithoutValue
  deriving DecidableEq, Repr

/-- The message types (10_state R15). -/
inductive MsgType where
  | unknown | login | gps | status | alarm | heartbeat
  deriving DecidableEq, Repr

/-- Which payload the record carries (10_state R16). -/
inductive PayloadKind where
  | none | login | gps
  deriving DecidableEq, Repr

/-- The causes of a decode error (60_exceptions R125). -/
inductive ErrCause where
  | none | structuralTooShort
  deriving DecidableEq, Repr

/-- The registers `imei_bcd`, `imei_lz`, `imei_nondec` (10_state R27). -/
structure ImeiRegs where
  bcd : BitVec 64
  lz : BitVec 5
  nondec : Bool
  deriving DecidableEq, Repr

/-- The `gps_*` registers (10_state R19). -/
structure GpsRegs where
  year : BitVec 12
  month : Byte
  day : Byte
  hour : Byte
  minute : Byte
  second : Byte
  lat : BitVec 32
  lng : BitVec 32
  speed : Byte
  course : BitVec 16
  deriving DecidableEq, Repr

def ImeiRegs.zero : ImeiRegs := { bcd := 0, lz := 0, nondec := false }

def GpsRegs.zero : GpsRegs :=
  { year := 0, month := 0, day := 0, hour := 0, minute := 0, second := 0, lat := 0, lng := 0, speed := 0,
    course := 0 }

/-- The decoded-record registers (10_state R14): all that `decode` writes. -/
structure Record where
  mtype : MsgType
  pkind : PayloadKind
  decErr : Bool
  errCause : ErrCause
  /-- `rx_time`, TIMEW bits (R18) -/
  rxTime : Nat
  imei : ImeiRegs
  gps : GpsRegs
  deriving DecidableEq, Repr

/-- The record registers cleared, with the time sample `now` (41_frame_parser R80, first lines). -/
def Record.blank (now : Nat) : Record :=
  { mtype := .unknown, pkind := .none, decErr := false, errCause := .none, rxTime := now, imei := .zero,
    gps := .zero }

/-- The payload a message carries, "one of {LoginPayload, GpsPayload, none}" (10_state R14, R16). -/
inductive Payload where
  | none
  | login (imei : ImeiRegs)
  | gps (gps : GpsRegs)
  deriving DecidableEq, Repr

/-- The DecodedMessage handed to the persistence sink (10_state R14). `rawHex`, the IMEI string and the degrees are
functions of it (Machine/Message.lean). -/
structure DecodedMessage where
  messageType : MsgType
  /-- the raw bytes `FB[0 .. flen)` (41_frame_parser R93) -/
  raw : List Byte
  length : Nat
  receivedAt : Nat
  payload : Payload
  /-- `decodeError` is present exactly when this is true -/
  decErr : Bool
  errCause : ErrCause
  deriving DecidableEq, Repr

/-- What can be observed of a run (00_scope R9): the outputs of a DELIVER and the value of `crc` after an event of
the CRC port. -/
inductive Observation where
  /-- `record_out` (43_session R110): to the persistence sink -/
  | record (m : DecodedMessage)
  /-- `resp_out` (R110): one write to the outbound byte stream -/
  | response (bytes : List Byte)
  /-- `crc_q` after a CRC-port event (40_crc R76) -/
  | crcQ (v : CrcWord)
  deriving DecidableEq, Repr

/-- A memory: (offset, byte) cells in the canonical form of `Memory.wf`. -/
abbrev Memory := List Host.Cell

/-- The two address spaces of the block (20_memory R30). -/
inductive Space where
  | fb | rb
  deriving DecidableEq, Repr

/-- What an offset that is not listed reads as: an FB cell has no value (10_state R13, R26), an RB cell is 0x00
(R26). -/
def unlisted : Space → Option Byte
  | .fb => none
  | .rb => some 0x00

/-- The canonical form: offsets strictly rising, and no entry equal to what an unlisted offset reads as. -/
abbrev Memory.wf (sp : Space) (m : Memory) : Prop :=
  (m.map Prod.fst).Pairwise (· < ·) ∧ ∀ c ∈ m, some c.2 ≠ unlisted sp

/-- One `GT06CORE` instance. `crc` to `rlen` are the state of 10_state R10; `cfg`, `pending` and `observed` are
the model's own (log entries 1, 2 and 3). -/
structure State where
  /-- the parameters of 00_scope R5 -/
  cfg : Config
  crc : CrcWord
  /-- the frame buffer FB -/
  fb : Memory
  /-- the number of bytes of the current delivery, LENW bits -/
  flen : Nat
  recValid : Bool
  record : Record
  /-- the response buffer RB -/
  rb : Memory
  rlen : BitVec 4
  /-- the events issued and not yet run, oldest first -/
  pending : List PortEvent
  /-- what has been observed so far, oldest first -/
  observed : List Observation
  deriving DecidableEq, Repr

/-- The registers after reset (10_state R26), for an instance with these parameters, events still to run and
observations so far. -/
def State.resetOf (cfg : Config) (pending : List PortEvent) (observed : List Observation) : State :=
  { cfg := cfg, crc := 0x0000, fb := [], flen := 0, recValid := false, record := Record.blank 0, rb := [],
    rlen := 0, pending := pending, observed := observed }

/-- The machine right after reset, with nothing issued to it. -/
def State.reset : State := State.resetOf Config.suggested [] []

end Sys2Proof.Machine
end

