-- ==== Sys2Proof/Machine/Ops.lean ====
section
/-! DEFINITION. The named operations over memory and registers that the meanings share, and the recording of a
decode error, which is all the block has of an exception (60_exceptions R126). -/

namespace Sys2Proof.Machine

/-! ### Memory -/

/-- The byte listed at an offset. -/
def Memory.find (m : Memory) (a : Nat) : Option Byte :=
  match m with
  | [] => none
  | c :: t => if c.1 = a then some c.2 else Memory.find t a

/-- One byte of a space: what is listed, else what an unlisted offset reads as. -/
def Memory.read (sp : Space) (m : Memory) (a : Nat) : Option Byte := (m.find a).or (unlisted sp)

/-- List a byte at an offset, in rising order, in place of what was listed there. -/
def Memory.insert (m : Memory) (a : Nat) (b : Byte) : Memory :=
  match m with
  | [] => [(a, b)]
  | c :: t => if a < c.1 then (a, b) :: c :: t else if c.1 = a then (a, b) :: t else c :: Memory.insert t a b

/-- Write one byte of a space, keeping the canonical form. -/
def Memory.write (sp : Space) (m : Memory) (a : Nat) (b : Byte) : Memory :=
  if unlisted sp = some b then m.filter (fun c => c.1 ≠ a) else m.insert a b

/-- The bytes at offsets `base`, `base + 1`, …: nothing else is listed. -/
def Memory.ofBytes (base : Nat) : List Byte → Memory
  | [] => []
  | b :: bs => (base, b) :: Memory.ofBytes (base + 1) bs

/-- The `n` bytes of a space from an offset on, if every one has a value. -/
def Memory.bytes (sp : Space) (m : Memory) (a : Nat) : Nat → Option (List Byte)
  | 0 => some []
  | n + 1 =>
    match m.read sp a, Memory.bytes sp m (a + 1) n with
    | some b, some bs => some (b :: bs)
    | _, _ => none

/-! ### The response buffer (20_memory R38) -/

/-- `MemWrite(off, 1, v)`. -/
def memWrite1 (rb : Memory) (off : Nat) (v : Byte) : Memory := rb.write .rb off v

/-- `MemWrite(off, 2, v)`: big-endian. -/
def memWrite2 (rb : Memory) (off : Nat) (v : BitVec 16) : Memory :=
  memWrite1 (memWrite1 rb off (highByte v)) (off + 1) (lowByte v)

/-- The RB cell at an offset (its value where none is listed is 0x00). -/
def rbCell (rb : Memory) (off : Nat) : Byte := (rb.read .rb off).getD 0x00

/-- `RB[0 .. n)`. -/
def rbBytes (rb : Memory) (n : Nat) : List Byte := (List.range n).map (rbCell rb)

/-! ### Reading one byte of the machine -/

/-- The byte of FB at an offset: offsets run below MAXLEN (20_memory R30); a cell at or beyond flen has no value. -/
def State.fbRead (s : State) (off : Nat) : Option Byte :=
  if off < s.cfg.maxLen then s.fb.read .fb off else none

/-- The byte of RB at an offset: offsets run from 0 to 9 (20_memory R30). -/
def State.rbRead (s : State) (off : Nat) : Option Byte :=
  if off < 10 then s.rb.read .rb off else none

/-! ### Recording a decode error -/

/-- `fail()` (41_frame_parser R80, R94; 60_exceptions R121, R126): the whole of taking the one condition the block
raises. The flag and the cause are set, the payload kind and every payload register cleared; the message type and
the time stay. There is no return from it (60_exceptions R127): the delivery goes on. -/
def Record.recordDecodeError (r : Record) : Record :=
  { r with decErr := true, errCause := .structuralTooShort, pkind := .none, imei := .zero, gps := .zero }

/-! ### The registers and the outputs -/

/-- The load at the start of a delivery (43_session R110, 10_state R12): FB holds the delivery and nothing else. -/
def State.loadFrame (s : State) (buf : List Byte) : State :=
  { s with fb := Memory.ofBytes 0 buf, flen := buf.length }

/-- The decoded record takes effect: every record register and `rec_valid` (43_session R110). -/
def State.setRecord (s : State) (r : Record) : State := { s with record := r, recValid := true }

/-- RB and `rlen`, written in full (20_memory R38). -/
structure RespBuf where
  rb : Memory
  rlen : BitVec 4
  deriving DecidableEq, Repr

def State.setResponse (s : State) (p : RespBuf) : State := { s with rb := p.rb, rlen := p.rlen }

/-- `crc` takes a value, and `crc_q` shows it (00_scope R9). -/
def State.setCrc (s : State) (v : CrcWord) : State :=
  { s with crc := v, observed := s.observed ++ [.crcQ v] }

/-- An output leaves the block. -/
def State.emit (s : State) (o : Observation) : State := { s with observed := s.observed ++ [o] }

/-- "if rlen > 0 then emit resp_out(RB[0 .. rlen))" (43_session R110), one contiguous write (42_response R105). -/
def State.sendResponse (s : State) : State :=
  if s.rlen = 0 then s else s.emit (.response (rbBytes s.rb s.rlen.toNat))

/-- The payload the record registers carry, selected by `pkind` (10_state R14). -/
def Record.payload (r : Record) : Payload :=
  match r.pkind with
  | .none => .none
  | .login => .login r.imei
  | .gps => .gps r.gps

/-- The DecodedMessage of the registers (10_state R14); none where a byte of it has no value (R13). -/
def State.message (s : State) : Option DecodedMessage :=
  match s.fb.bytes .fb 0 s.flen with
  | none => none
  | some raw =>
    some { messageType := s.record.mtype, raw := raw, length := s.flen, receivedAt := s.record.rxTime,
           payload := s.record.payload, decErr := s.record.decErr, errCause := s.record.errCause }

/-- The outcome of a meaning that answers a state or says why it stops. -/
def toOutcome : Except Refusal State → Host.Outcome State Fault Refusal
  | .ok s => .next s
  | .error r => .refused r

end Sys2Proof.Machine
end

