-- ==== Sys2Proof/Machine/CrcPort.lean ====
section
/-! DEFINITION. The events of the CRC port (40_crc R74 to R76). -/

namespace Sys2Proof.Machine

/-- CRC.CLR (R74). -/
def execCrcClr (s : State) : Host.Outcome State Fault Refusal := .next (s.setCrc crcInit)

/-- CRC.UPD (R75). -/
def execCrcUpd (b : Byte) (s : State) : Host.Outcome State Fault Refusal := .next (s.setCrc (crcUpdate s.crc b))

/-- The derived form `CRC.RANGE(bytes, s, e)` (R76, 30_encoding R66): a clear, then an update per byte of the
range. The model's choice (log entry 18): outside 0 ≤ s ≤ e ≤ len(bytes) it has no expansion, as `crc16` has no result
there (U1). -/
def crcRangeEvents (bytes : List Byte) (s e : Nat) : Option (List PortEvent) :=
  if s ≤ e ∧ e ≤ bytes.length then some (.crcClr :: (slice bytes s e).map .crcUpd) else none

end Sys2Proof.Machine
end

