-- ==== Sys2Proof/Machine/Operands.lean ====
section
/-! DEFINITION. The operand forms: the reads of the frame buffer (20_memory R33, R34), the fields made of them
(30_encoding R57 to R59), and the register codes (10_state R15, R16, 60_exceptions R125). -/

namespace Sys2Proof.Machine

/-! ### Register codes -/

/-- The 3-bit code of `mtype` (10_state R15). -/
def MsgType.code : MsgType → BitVec 3
  | .unknown => 0
  | .login => 1
  | .gps => 2
  | .status => 3
  | .alarm => 4
  | .heartbeat => 5

/-- The 2-bit code of `pkind` (10_state R16). -/
def PayloadKind.code : PayloadKind → BitVec 2
  | .none => 0
  | .login => 1
  | .gps => 2

/-- The 2-bit code of `err_cause` (60_exceptions R125). -/
def ErrCause.code : ErrCause → BitVec 2
  | .none => 0
  | .structuralTooShort => 1

/-! ### Reads of the frame buffer -/

/-- Why a read of FB gives no value. -/
inductive ReadFail where
  /-- `StructuralTooShort(off, n)`: the read passes the end of the delivery (20_memory R33) -/
  | structuralTooShort (off n : Nat)
  /-- the cell holds no value (10_state R13) -/
  | noValue (off : Nat)
  deriving DecidableEq, Repr

/-- The cell at an offset, which must have a value. -/
def fbCell (fb : Memory) (off : Nat) : Except ReadFail Byte :=
  match fb.read .fb off with
  | some b => .ok b
  | none => .error (.noValue off)

/-- The bounds check of `MemRead(off, n)` (20_memory R33). -/
def inBounds (flen off n : Nat) : Except ReadFail Unit :=
  if flen < off + n then .error (.structuralTooShort off n) else .ok ()

/-- `MemRead(off, 1)`. -/
def memRead1 (fb : Memory) (flen off : Nat) : Except ReadFail Byte := do
  inBounds flen off 1
  fbCell fb off

/-- `MemRead(off, 2)`: big-endian. -/
def memRead2 (fb : Memory) (flen off : Nat) : Except ReadFail (BitVec 16) := do
  inBounds flen off 2
  let b0 ← fbCell fb off
  let b1 ← fbCell fb (off + 1)
  pure (b0 ++ b1)

/-- `MemRead(off, 4)`: big-endian. -/
def memRead4 (fb : Memory) (flen off : Nat) : Except ReadFail (BitVec 32) := do
  inBounds flen off 4
  let b0 ← fbCell fb off
  let b1 ← fbCell fb (off + 1)
  let b2 ← fbCell fb (off + 2)
  let b3 ← fbCell fb (off + 3)
  pure (b0 ++ b1 ++ b2 ++ b3)

/-- The tail-relative read (20_memory R34): `FB[flen - 6]` and `FB[flen - 5]`, not made when flen < 6. -/
def tailSerial (fb : Memory) (flen : Nat) : Except ReadFail (Option (Byte × Byte)) :=
  if flen < 6 then .ok none
  else do
    let h ← fbCell fb (flen - 6)
    let l ← fbCell fb (flen - 5)
    pure (some (h, l))

/-! ### Fields -/

/-- IMEI digit `k`, `imei_bcd[63-4k : 60-4k]` (10_state R27, 30_encoding R57). -/
def imeiDigit (bcd : BitVec 64) (k : Nat) : BitVec 4 := bcd.extractLsb' (60 - 4 * k) 4

/-- `2000 + y` in 12 bits (30_encoding R58, 41_frame_parser R86); 2000 is `YEAR_BASE` (00_scope R6). -/
def gpsYear (y : Byte) : BitVec 12 := 2000 + y.setWidth 12

end Sys2Proof.Machine
end

