-- ==== Sys2Proof/Machine/Flags.lean ====
section
/-! DEFINITION. What is computed beside a result: `imei_lz` and `imei_nondec` (41_frame_parser R84), and the flags
of a delivery (10_state R17). -/

namespace Sys2Proof.Machine

/-- `imei_lz` (R84): "the least k in 0..15 with digit k not 0, or 16 when all sixteen digits are 0". -/
def imeiLz (bcd : BitVec 64) : BitVec 5 :=
  BitVec.ofNat 5 ((List.range 16).findIdx (fun k => imeiDigit bcd k != 0))

/-- `imei_nondec` (R84): "1 when some digit k exceeds 9, else 0". -/
def imeiNondec (bcd : BitVec 64) : Bool :=
  (List.range 16).any (fun k => decide (9 < imeiDigit bcd k))

/-- The three IMEI registers of a packed-BCD value. -/
def imeiOf (bcd : BitVec 64) : ImeiRegs := { bcd := bcd, lz := imeiLz bcd, nondec := imeiNondec bcd }

/-- A response is present exactly when `rlen` is not 0 (10_state R17). -/
def State.responsePresent (s : State) : Bool := s.rlen != 0

end Sys2Proof.Machine
end

