-- ==== Sys2Proof/Machine/Message.lean ====
section
/-! DEFINITION. The DecodedMessage in the document's terms: functions a model applies to what the block outputs
(10_state R14, 30_encoding R67, 41_frame_parser R84, R87). -/

namespace Sys2Proof.Machine

/-- The character of a nibble in lowercase hexadecimal (30_encoding R67). -/
def hexDigit (n : BitVec 4) : Char :=
  if n < 10 then Char.ofNat (48 + n.toNat) else Char.ofNat (87 + n.toNat)

/-- The two characters of a byte, high nibble first (R67). -/
def hexByte (b : Byte) : List Char := [hexDigit (b.extractLsb' 4 4), hexDigit (b.extractLsb' 0 4)]

/-- `hexlower(bytes)` (R67), as characters. -/
def hexlower (bytes : List Byte) : List Char := bytes.flatMap hexByte

/-- `rawHex` (41_frame_parser R93). -/
def DecodedMessage.rawHex (m : DecodedMessage) : String := String.ofList (hexlower m.raw)

/-- The character of IMEI digit `k` (41_frame_parser R84). For a nibble above 9 the spec defines none: the free
value `Config.nondecChar` (U3, log entry 11). -/
def imeiChar (bcd : BitVec 64) (k : Nat) : Char :=
  if imeiDigit bcd k ≤ 9 then hexDigit (imeiDigit bcd k) else Config.nondecChar bcd k

/-- The characters of the IMEI string: digits `imei_lz` to 15 (R84). -/
def ImeiRegs.chars (r : ImeiRegs) : List Char :=
  ((List.range 16).drop r.lz.toNat).map (imeiChar r.bcd)

/-- The IMEI string (R84). -/
def ImeiRegs.string (r : ImeiRegs) : String := String.ofList r.chars

/-- `COORD_SCALE` (00_scope R6). -/
def coordScale : Nat := 1800000

/-- A coordinate in degrees, the exact rational (41_frame_parser R87). -/
def degrees (raw : BitVec 32) : Rat := (raw.toNat : Rat) / (coordScale : Rat)

def GpsRegs.latitude (g : GpsRegs) : Rat := degrees g.lat

def GpsRegs.longitude (g : GpsRegs) : Rat := degrees g.lng

end Sys2Proof.Machine
end

