-- ==== Sys2Proof/Machine/FrameCodec.lean ====
section
/-! DEFINITION. The Frame Codec: `decode` with its length dispatch, type dispatch and field extraction
(41_frame_parser). -/

namespace Sys2Proof.Machine

/-- `classify(t)` (R82). -/
def classify (ext22 : Bool) (t : Byte) : MsgType :=
  if t = protoLogin then .login
  else if t = protoGps then .gps
  else if t = protoStatus then .status
  else if t = protoAlarm then .alarm
  else if t = protoHeartbeat then .heartbeat
  else if t = protoGpsExt22 ∧ ext22 = true then .gps
  else .unknown

/-- `extract_login()` (R83): the eight bytes at offsets 4 to 11, the first in bits 63:56. -/
def extractLogin (fb : Memory) (flen : Nat) : Except ReadFail ImeiRegs := do
  let b0 ← memRead1 fb flen 4
  let b1 ← memRead1 fb flen 5
  let b2 ← memRead1 fb flen 6
  let b3 ← memRead1 fb flen 7
  let b4 ← memRead1 fb flen 8
  let b5 ← memRead1 fb flen 9
  let b6 ← memRead1 fb flen 10
  let b7 ← memRead1 fb flen 11
  pure (imeiOf (b0 ++ b1 ++ b2 ++ b3 ++ b4 ++ b5 ++ b6 ++ b7))

/-- `extract_gps()` (R85): ten reads, and no register written until all have succeeded. -/
def extractGps (fb : Memory) (flen : Nat) : Except ReadFail GpsRegs := do
  let y ← memRead1 fb flen 4
  let mo ← memRead1 fb flen 5
  let d ← memRead1 fb flen 6
  let h ← memRead1 fb flen 7
  let mi ← memRead1 fb flen 8
  let s ← memRead1 fb flen 9
  let la ← memRead4 fb flen 10
  let lo ← memRead4 fb flen 14
  let sp ← memRead1 fb flen 18
  let cs ← memRead2 fb flen 19
  pure { year := gpsYear y, month := mo, day := d, hour := h, minute := mi, second := s, lat := la, lng := lo,
         speed := sp, course := cs }

/-- The record of a message type whose payload is not decoded (R88 to R91). -/
def plainRecord (m : MsgType) (now : Nat) : Record := { Record.blank now with mtype := m }

/-- "try … catch StructuralTooShort: fail()" (R80): the extracted payload goes into the record `r`, or the decode
error is recorded in it. Only StructuralTooShort is caught; a cell without a value is refused. -/
def settle {α : Type} (r : Record) (put : α → Record) : Except ReadFail α → Except Refusal Record
  | .ok a => .ok (put a)
  | .error (.structuralTooShort _ _) => .ok r.recordDecodeError
  | .error (.noValue _) => .error .cellWithoutValue

/-- The record of a Login delivery (R83). -/
def loginRecord (now : Nat) (fb : Memory) (flen : Nat) : Except Refusal Record :=
  let r := plainRecord .login now
  settle r (fun imei => { r with pkind := .login, imei := imei }) (extractLogin fb flen)

/-- The record of a Gps delivery (R85). -/
def gpsRecord (now : Nat) (fb : Memory) (flen : Nat) : Except Refusal Record :=
  let r := plainRecord .gps now
  settle r (fun gps => { r with pkind := .gps, gps := gps }) (extractGps fb flen)

/-- `decode(FB, flen, now)` (R80). -/
def decodeRecord (ext22 : Bool) (now : Nat) (fb : Memory) (flen : Nat) : Except Refusal Record :=
  if flen < 4 then .ok (Record.blank now)
  else
    match fbCell fb 3 with
    | .error _ => .error .cellWithoutValue
    | .ok t =>
      match classify ext22 t with
      | .login => loginRecord now fb flen
      | .gps => gpsRecord now fb flen
      | .status => .ok (plainRecord .status now)
      | .alarm => .ok (plainRecord .alarm now)
      | .heartbeat => .ok (plainRecord .heartbeat now)
      | .unknown => .ok (plainRecord .unknown now)

end Sys2Proof.Machine
end

