-- ==== Sys2Proof/Machine/Response.lean ====
section
/-! DEFINITION. The Response Policy: `buildResponse` and the two acknowledgment frames (42_response). -/

namespace Sys2Proof.Machine

/-- No response: RB all 0x00 and `rlen` 0 (R100, R102, R104). -/
def noResponse : RespBuf := { rb := [], rlen := 0 }

/-- `ack_login()` (R101) with the serial bytes `h` and `l`, over a cleared RB (R100): the checksum is `crc16` of
the bytes just put at offsets 2 to 5. -/
def ackLogin (h l : Byte) : RespBuf :=
  let rb := memWrite1 (memWrite1 (memWrite1 (memWrite1 [] 0 0x78) 1 0x78) 2 0x05) 3 0x01
  let rb := memWrite1 (memWrite1 rb 4 h) 5 l
  let v := crcOf [rbCell rb 2, rbCell rb 3, rbCell rb 4, rbCell rb 5]
  let rb := memWrite2 rb 6 v
  { rb := memWrite1 (memWrite1 rb 8 0x0D) 9 0x0A, rlen := 10 }

/-- Write bytes at rising offsets. -/
def writeBytes (rb : Memory) (off : Nat) : List Byte → Memory
  | [] => rb
  | b :: bs => writeBytes (memWrite1 rb off b) (off + 1) bs

/-- `ack_heartbeat()` (R103): the literal, and RB[9] is 0x00. -/
def ackHeartbeat : RespBuf := { rb := memWrite1 (writeBytes [] 0 hbAck) 9 0x00, rlen := 9 }

/-- The response to a Login delivery (R101, R102). -/
def respondLogin (fb : Memory) (flen : Nat) : Except Refusal RespBuf :=
  match tailSerial fb flen with
  | .ok (some (h, l)) => .ok (ackLogin h l)
  | .ok none => .ok noResponse
  | .error _ => .error .cellWithoutValue

/-- `buildResponse(mtype, FB, flen)` (R100): on the message type, and on flen for Login; nothing else. -/
def buildResponse (m : MsgType) (fb : Memory) (flen : Nat) : Except Refusal RespBuf :=
  match m with
  | .login => respondLogin fb flen
  | .heartbeat => .ok ackHeartbeat
  | .gps => .ok noResponse
  | .status => .ok noResponse
  | .alarm => .ok noResponse
  | .unknown => .ok noResponse

/-- ACK_LOGIN (R101) on its own: RB and `rlen` (log entry 6). -/
def execAckLogin (h l : Byte) (s : State) : Host.Outcome State Fault Refusal := .next (s.setResponse (ackLogin h l))

/-- ACK_HEARTBEAT (R103) on its own: RB and `rlen` (log entry 6). -/
def execAckHeartbeat (s : State) : Host.Outcome State Fault Refusal := .next (s.setResponse ackHeartbeat)

end Sys2Proof.Machine
end

