-- ==== Sys2Proof/Machine/Session.lean ====
section
/-! DEFINITION. The Session Handler: DELIVER (43_session R110), the frame classes it dispatches to (00_scope R7),
and RESET (70_reset_and_hazards R140). -/

namespace Sys2Proof.Machine

/-- Is there a step for this delivery? At most MAXLEN bytes (70 R147), and a TIMEW-bit sample (43_session R110). -/
def checkDelivery (c : Config) (len now : Nat) : Except Refusal Unit :=
  if c.maxLen < len then .error .deliveryTooLong
  else if 2 ^ c.timeW ≤ now then .error .sampleTooWide
  else .ok ()

/-- The message of the registers, refused where a byte of it has no value. -/
def recordOut (s : State) : Except Refusal DecodedMessage :=
  match s.message with
  | some m => .ok m
  | none => .error .cellWithoutValue

/-- The fixed order of steps in one delivery (43_session R110): load, decode, hand the record over, build the
response, send it. `decode` reads FB and flen, `respond` the decoded record, FB and flen. -/
def delivery (buf : List Byte) (now : Nat) (decode : Memory → Nat → Except Refusal Record)
    (respond : Record → Memory → Nat → Except Refusal RespBuf) (s : State) : Except Refusal State := do
  checkDelivery s.cfg buf.length now
  let s := s.loadFrame buf
  let r ← decode s.fb s.flen
  let s := s.setRecord r
  let m ← recordOut s
  let s := s.emit (.record m)
  let p ← respond r s.fb s.flen
  pure (s.setResponse p).sendResponse

/-- A delivery whose payload is not decoded and which is not answered. -/
def plainDelivery (m : MsgType) (buf : List Byte) (now : Nat) (s : State) : Except Refusal State :=
  delivery buf now (fun _ _ => .ok (plainRecord m now)) (fun _ _ _ => .ok noResponse) s

/-- A Gps delivery: extracted, not answered (41_frame_parser R85, 42_response R104). -/
def gpsDelivery (buf : List Byte) (now : Nat) (s : State) : Except Refusal State :=
  delivery buf now (gpsRecord now) (fun _ _ _ => .ok noResponse) s

/-- SHORT (41_frame_parser R81). -/
def execShort (buf : List Byte) (now : Nat) (s : State) : Host.Outcome State Fault Refusal :=
  if buf.length < 4 then toOutcome (plainDelivery .unknown buf now s) else .refused .rowConditionNotMet

/-- LOGIN (41_frame_parser R83, 42_response R101, R102). -/
def execLogin (hdr : Header) (rest : List Byte) (now : Nat) (s : State) : Host.Outcome State Fault Refusal :=
  toOutcome (delivery (frameBytes hdr protoLogin rest) now (loginRecord now) (fun _ => respondLogin) s)

/-- GPS (41_frame_parser R85 to R87). -/
def execGps (hdr : Header) (rest : List Byte) (now : Nat) (s : State) : Host.Outcome State Fault Refusal :=
  toOutcome (gpsDelivery (frameBytes hdr protoGps rest) now s)

/-- STATUS (41_frame_parser R88). -/
def execStatus (hdr : Header) (rest : List Byte) (now : Nat) (s : State) : Host.Outcome State Fault Refusal :=
  toOutcome (plainDelivery .status (frameBytes hdr protoStatus rest) now s)

/-- ALARM (41_frame_parser R89). -/
def execAlarm (hdr : Header) (rest : List Byte) (now : Nat) (s : State) : Host.Outcome State Fault Refusal :=
  toOutcome (plainDelivery .alarm (frameBytes hdr protoAlarm rest) now s)

/-- HEARTBEAT (41_frame_parser R90, 42_response R103). -/
def execHeartbeat (hdr : Header) (rest : List Byte) (now : Nat) (s : State) : Host.Outcome State Fault Refusal :=
  toOutcome (delivery (frameBytes hdr protoHeartbeat rest) now (fun _ _ => .ok (plainRecord .heartbeat now))
    (fun _ _ _ => .ok ackHeartbeat) s)

/-- GPS_EXT22 (41_frame_parser R92, 30_encoding R53): as GPS when EXT22 = 1, as UNKNOWN when EXT22 = 0. -/
def execGpsExt22 (hdr : Header) (rest : List Byte) (now : Nat) (s : State) : Host.Outcome State Fault Refusal :=
  if s.cfg.ext22 then toOutcome (gpsDelivery (frameBytes hdr protoGpsExt22 rest) now s)
  else toOutcome (plainDelivery .unknown (frameBytes hdr protoGpsExt22 rest) now s)

/-- UNKNOWN (41_frame_parser R91). -/
def execUnknown (hdr : Header) (t : Byte) (rest : List Byte) (now : Nat) (s : State) :
    Host.Outcome State Fault Refusal :=
  if isRowProtocol t then .refused .rowConditionNotMet
  else toOutcome (plainDelivery .unknown (frameBytes hdr t rest) now s)

/-- DELIVER (43_session R110): `decode` and `buildResponse` as 41_frame_parser R80 and 42_response R100 write
them, for any delivery. -/
def execDeliver (buf : List Byte) (now : Nat) (s : State) : Host.Outcome State Fault Refusal :=
  toOutcome (delivery buf now (decodeRecord s.cfg.ext22 now) (fun r => buildResponse r.mtype) s)

/-- RESET (70_reset_and_hazards R140, 10_state R26): every register to its reset value, FB without values. The
parameters are fixed (10_state R23); the events not yet run and what has been observed are the environment's. -/
def execReset (s : State) : Host.Outcome State Fault Refusal :=
  .next (State.resetOf s.cfg s.pending s.observed)

end Sys2Proof.Machine
end

