-- ==== Sys2Proof/Machine/Dispatch.lean ====
section
/-! DEFINITION. One arm per row of spec/opcode_table.json. -/

namespace Sys2Proof.Machine

def exec (i : Instr) (s : State) : Host.Outcome State Fault Refusal :=
  match i with
  | .short buf now => Sys2Proof.Machine.execShort buf now s
  | .login hdr rest now => Sys2Proof.Machine.execLogin hdr rest now s
  | .gps hdr rest now => Sys2Proof.Machine.execGps hdr rest now s
  | .status hdr rest now => Sys2Proof.Machine.execStatus hdr rest now s
  | .alarm hdr rest now => Sys2Proof.Machine.execAlarm hdr rest now s
  | .heartbeat hdr rest now => Sys2Proof.Machine.execHeartbeat hdr rest now s
  | .gpsExt22 hdr rest now => Sys2Proof.Machine.execGpsExt22 hdr rest now s
  | .unknown hdr t rest now => Sys2Proof.Machine.execUnknown hdr t rest now s
  | .ackLogin h l => Sys2Proof.Machine.execAckLogin h l s
  | .ackHeartbeat => Sys2Proof.Machine.execAckHeartbeat s
  | .crcUpd b => Sys2Proof.Machine.execCrcUpd b s
  | .crcClr => Sys2Proof.Machine.execCrcClr s
  | .deliver buf now => Sys2Proof.Machine.execDeliver buf now s
  | .reset => Sys2Proof.Machine.execReset s

end Sys2Proof.Machine
end

