-- ==== Sys2Proof/Machine/Step.lean ====
section
/-! DEFINITION. One step of the machine: one whole event (00_scope R7). -/

namespace Sys2Proof.Machine

/-- The oldest pending event is decoded and run; it is pending no more. With no event the block "is idle and keeps
all its state" (60_exceptions R133, 43_session R117). -/
def step (s : State) : Host.Outcome State Fault Refusal :=
  match s.pending with
  | [] => .next s
  | e :: es => exec (decodeEvent e) { s with pending := es }

/-- `s` with the instruction of a table word issued as the next event (log entry 4). -/
def State.withFetchWord (s : State) (nbits w : Nat) : State :=
  { s with pending := eventFor (tableWire nbits w) :: s.pending }

end Sys2Proof.Machine
end

