-- ==== Sys2Proof/Safety.lean ====
section
/-! DEFINITION. The terms in which claims are stated: the invariants of the block, what one delivery does to it, and
the sessions its environment may run. -/

namespace Sys2Proof.Machine

/-! ### Invariants -/

/-- The frame buffer lists exactly the offsets of the current delivery (10_state R12, R13), which fits the
parameters; the response buffer is in canonical form and lists offsets 0 to 9 only (20_memory R30). -/
structure State.MemoryInv (s : State) : Prop where
  fb_offsets : s.fb.map Prod.fst = List.range s.flen
  fb_wf : s.fb.wf .fb
  flen_le : s.flen ≤ s.cfg.maxLen
  rb_wf : s.rb.wf .rb
  rb_offsets : ∀ c ∈ s.rb, c.1 < 10

/-- What R16, R17, R18, R19 and R84 say of the record registers of an instance with these parameters. -/
structure Record.Inv (c : Config) (r : Record) : Prop where
  login_payload : r.pkind = .login → r.mtype = .login ∧ r.decErr = false
  gps_payload : r.pkind = .gps → r.mtype = .gps ∧ r.decErr = false
  imei_zero : r.pkind ≠ .login → r.imei = .zero
  gps_zero : r.pkind ≠ .gps → r.gps = .zero
  error_type : r.decErr = true → r.mtype = .login ∨ r.mtype = .gps
  payload_of_login : r.mtype = .login → r.decErr = false → r.pkind = .login
  payload_of_gps : r.mtype = .gps → r.decErr = false → r.pkind = .gps
  cause : r.errCause = if r.decErr then .structuralTooShort else .none
  time_width : r.rxTime < 2 ^ c.timeW
  lz_le : r.imei.lz.toNat ≤ 16
  year_range : r.pkind = .gps → 2000 ≤ r.gps.year.toNat ∧ r.gps.year.toNat ≤ 2255

/-- The response registers (10_state R20). -/
structure State.ResponseInv (s : State) : Prop where
  lengths : s.rlen = 0 ∨ s.rlen = 9 ∨ s.rlen = 10
  cell9 : s.rlen = 9 → s.rbRead 9 = some 0x00
  cleared : s.rlen = 0 → ∀ off, off < 10 → s.rbRead off = some 0x00

/-- The registers are those of the delivery in FB: while `rec_valid` is 0 they "carry their reset values" (10_state
R14), and afterwards the record is `decode` of the buffer and the response is `buildResponse` of it (R24). -/
structure State.Coherent (s : State) : Prop where
  before : s.recValid = false → s = { State.resetOf s.cfg s.pending s.observed with crc := s.crc }
  decoded : s.recValid = true → decodeRecord s.cfg.ext22 s.record.rxTime s.fb s.flen = .ok s.record
  answered : s.recValid = true → buildResponse s.record.mtype s.fb s.flen = .ok { rb := s.rb, rlen := s.rlen }

/-! ### What one delivery does -/

/-- The DecodedMessage of a delivery that decodes to `r` and carries the payload `p` (10_state R14, 41_frame_parser
R93). -/
def messageOf (buf : List Byte) (r : Record) (p : Payload) : DecodedMessage :=
  { messageType := r.mtype, raw := buf, length := buf.length, receivedAt := r.rxTime, payload := p,
    decErr := r.decErr, errCause := r.errCause }

/-- `t` is what `s` becomes by a delivery of `buf` that decodes to the record `r`, hands over the payload `p` and is
answered by the bytes `resp` (none: no response). All of it: FB and flen hold the delivery and no other FB cell has a value; RB holds the
response, 0x00 beyond it; the record is handed out before the response, each once; `crc`, the parameters and the
events still pending are as they were. -/
structure Delivered (s t : State) (buf : List Byte) (r : Record) (p : Payload) (resp : List Byte) : Prop where
  flen : t.flen = buf.length
  fb : ∀ i, t.fbRead i = buf[i]?
  recValid : t.recValid = true
  record : t.record = r
  rlen : t.rlen.toNat = resp.length
  rb : ∀ i, i < 10 → t.rbRead i = some (resp.getD i 0x00)
  observed : t.observed = s.observed ++ .record (messageOf buf r p) :: (if resp = [] then [] else [.response resp])
  crc : t.crc = s.crc
  cfg : t.cfg = s.cfg
  pending : t.pending = s.pending

/-- Every field but the response registers is as it was. -/
structure SameButResponse (s t : State) : Prop where
  cfg : t.cfg = s.cfg
  crc : t.crc = s.crc
  fb : ∀ i, t.fbRead i = s.fbRead i
  flen : t.flen = s.flen
  recValid : t.recValid = s.recValid
  record : t.record = s.record
  pending : t.pending = s.pending
  observed : t.observed = s.observed

/-- Every field but `crc` and the observations is as it was. -/
structure SameButCrc (s t : State) : Prop where
  cfg : t.cfg = s.cfg
  fb : ∀ i, t.fbRead i = s.fbRead i
  flen : t.flen = s.flen
  recValid : t.recValid = s.recValid
  record : t.record = s.record
  rb : ∀ i, t.rbRead i = s.rbRead i
  rlen : t.rlen = s.rlen
  pending : t.pending = s.pending

/-! ### Sessions (30_encoding R66) -/

/-- The environment keeps its duties (43_session R115): every pending delivery fits the parameters. -/
def State.Admissible (s : State) : Prop := ∀ e ∈ s.pending, e.fits s.cfg = true

def Observation.isRecord : Observation → Bool
  | .record _ => true
  | .response _ => false
  | .crcQ _ => false

def Observation.isResponse : Observation → Bool
  | .record _ => false
  | .response _ => true
  | .crcQ _ => false

/-- Run `k` steps of the block, stopping at a refusal: `Host.Core.run` of `Sys2Proof.core` (Laws/Step.lean,
`run_eq_core_run`). -/
def run : Nat → State → Host.Outcome State Fault Refusal
  | 0, s => .next s
  | k + 1, s =>
    match step s with
    | .next t => run k t
    | .refused r => .refused r
    | .fault f => .fault f

end Sys2Proof.Machine

namespace Sys2Proof.PortEvent

def isDeliver : PortEvent → Bool
  | .deliver _ _ => true
  | .crcUpd _ => false
  | .crcClr => false
  | .reset => false

/-- What an event does to `crc`: the CRC port and RESET write it, a delivery does not (10_state R11, 70 R140). -/
def crcAfter (c : CrcWord) : PortEvent → CrcWord
  | .deliver _ _ => c
  | .crcUpd b => crcUpdate c b
  | .crcClr => 0x0000
  | .reset => 0x0000

end Sys2Proof.PortEvent
end

