-- ==== Sys2Proof/Certificates/Slice0/Obligations.lean ====
section
/-! DEFINITION. The statements about GT06CORE, from the numbered rules of spec/. Every one holds for every value of
the parameters MAXLEN, TIMEW and EXT22 (State.cfg) unless it says otherwise. -/

open Sys2Proof Sys2Proof.Machine

/-! ### Reset -/

/-- 10_state R26: the values after reset. -/
def Obligations.ResetStateHoldsSpecifiedValues : Prop :=
  State.reset.crc = 0x0000 ∧ State.reset.flen = 0 ∧ State.reset.recValid = false ∧
  State.reset.record.mtype.code = 0 ∧ State.reset.record.pkind.code = 0 ∧ State.reset.record.decErr = false ∧
  State.reset.record.errCause.code = 0 ∧ State.reset.record.rxTime = 0 ∧
  State.reset.record.imei = { bcd := 0, lz := 0, nondec := false } ∧
  State.reset.record.gps = {
      year := 0, month := 0, day := 0, hour := 0, minute := 0, second := 0, lat := 0, lng := 0, speed := 0,
      course := 0 } ∧
  State.reset.rlen = 0 ∧ (∀ off, State.reset.fbRead off = none) ∧
  (∀ off, off < 10 → State.reset.rbRead off = some 0x00)

/-- 70_reset_and_hazards R140: RESET puts every register to its value of R26, from any state, emits nothing, and a
later DELIVER has the same record and response as without it. That the parameters, the pending events and the past
observations stay is the model's (log entries 1, 2, 3). -/
def Obligations.ResetEventRestoresEveryRegister : Prop :=
  ∀ s : State, ∃ t, exec .reset s = .next t ∧
    t.crc = 0x0000 ∧ t.flen = 0 ∧ t.recValid = false ∧
    t.record = {
        mtype := .unknown, pkind := .none, decErr := false, errCause := .none, rxTime := 0,
        imei := { bcd := 0, lz := 0, nondec := false },
        gps := {
          year := 0, month := 0, day := 0, hour := 0, minute := 0, second := 0, lat := 0, lng := 0, speed := 0,
          course := 0 } } ∧
    t.rlen = 0 ∧ (∀ off, t.fbRead off = none) ∧ (∀ off, off < 10 → t.rbRead off = some 0x00) ∧
    t.cfg = s.cfg ∧ t.pending = s.pending ∧ t.observed = s.observed ∧
    ∀ buf now, buf.length ≤ s.cfg.maxLen → now < 2 ^ s.cfg.timeW →
      ∃ u v, exec (.deliver buf now) s = .next u ∧ exec (.deliver buf now) t = .next v ∧
        u.record = v.record ∧ u.rlen = v.rlen ∧ ∀ off, u.rbRead off = v.rbRead off

/-! ### The Checksum Engine -/

/-- 40_crc R71, bit by bit: bit 0 becomes 0, the others move up, and 0x1021 (bits 0, 5 and 12) is XORed in when the
bit shifted out of position 15 was set. -/
def Obligations.CrcRoundShiftsAndXorsPolynomial : Prop :=
  ∀ (c : CrcWord) (i : Nat), i < 16 →
    (crcRound c).getLsbD i =
      ((decide (0 < i) && c.getLsbD (i - 1)).xor (c.getLsbD 15 && decide (i = 0 ∨ i = 5 ∨ i = 12)))

/-- 40_crc R72: the byte is XORed into bits 15:8, then eight rounds. -/
def Obligations.CrcUpdateIsEightRoundsAfterXor : Prop :=
  ∀ (c : CrcWord) (b : Byte), crcUpdate c b = crcRound^[8] (c ^^^ (b.setWidth 16 <<< 8))

/-- 40_crc R78, which the spec infers ("[derived: from rule R71 and rule R72]"): the bit-serial form gives
`crc_update`. -/
def Obligations.CrcUpdateEqualsBitSerialForm : Prop :=
  ∀ (c : CrcWord) (b : Byte), crcSerialUpdate c b = crcUpdate c b

/-- 40_crc R73: an empty range gives 0x0000, a range one byte longer is one update more, and a range outside
0 ≤ s ≤ e ≤ len(bytes) has no result. -/
def Obligations.CrcOfRangeGrowsByteByByte : Prop :=
  ∀ bytes : List Byte,
    (∀ s, s ≤ bytes.length → crc16 bytes s s = some 0x0000) ∧
    (∀ s e, s ≤ e → ∀ h : e < bytes.length,
      ∃ c, crc16 bytes s e = some c ∧ crc16 bytes s (e + 1) = some (crcUpdate c bytes[e])) ∧
    (∀ s e, ¬(s ≤ e ∧ e ≤ bytes.length) → crc16 bytes s e = none)

/-- 40_crc R77 (c) and (d), which the spec infers ("[derived: from rule R71, rule R72 and rule R73]"): leading zero
bytes are invisible, and a CRC continues over a second sequence. -/
def Obligations.CrcChainsAndIgnoresLeadingZeros : Prop :=
  ∀ m n : List Byte, crcOf (0x00 :: m) = crcOf m ∧ crcOf (m ++ n) = n.foldl crcUpdate (crcOf m)

/-- 40_crc R77 (e), inferred as (c) is: a message followed by its own checksum, high byte first, leaves the register
at zero. -/
def Obligations.CrcOfMessageWithItsChecksumIsZero : Prop :=
  ∀ m : List Byte, crcOf (m ++ [highByte (crcOf m), lowByte (crcOf m)]) = 0x0000

/-- 40_crc R77 (f), inferred as (c) is: linearity over XOR for equal lengths. -/
def Obligations.CrcIsLinearOverXor : Prop :=
  ∀ m n : List Byte, m.length = n.length →
    crcOf (List.zipWith (fun x y => x ^^^ y) m n) = crcOf m ^^^ crcOf n

/-- 40_crc R74: CRC.CLR clears `crc` and touches no other state (that the observation list shows `crc_q` is the
model's form of 00_scope R9, log entry 3). -/
def Obligations.CrcClearWritesZeroOnly : Prop :=
  ∀ s : State, ∃ t, exec .crcClr s = .next t ∧ t.crc = 0x0000 ∧ SameButCrc s t ∧
    t.observed = s.observed ++ [.crcQ 0x0000]

/-- 40_crc R75: CRC.UPD folds its byte into the current `crc`, with no clear first, and touches no other state (the
observation: log entry 3). -/
def Obligations.CrcUpdateFoldsOneByteOnly : Prop :=
  ∀ (s : State) (b : Byte), ∃ t, exec (.crcUpd b) s = .next t ∧ t.crc = crcUpdate s.crc b ∧ SameButCrc s t ∧
    t.observed = s.observed ++ [.crcQ (crcUpdate s.crc b)]

/-- 40_crc R76, which the spec infers ("[derived: from rule R73, rule R74 and rule R75]"): the events of
`CRC.RANGE(bytes, lo, hi)` leave `crc16(bytes, lo, hi)` in `crc`, whatever it held before, and change nothing else
(but the observations, log entry 3). That the form has no expansion outside 0 ≤ lo ≤ hi ≤ len(bytes) is the model's
choice (log entry 18). -/
def Obligations.CrcRangeEventsComputeCrc16 : Prop :=
  ∀ (bytes : List Byte) (lo hi : Nat),
    (lo ≤ hi → hi ≤ bytes.length → ∃ events, crcRangeEvents bytes lo hi = some events ∧
      ∀ (s : State) (later : List PortEvent), s.pending = events ++ later →
        ∃ t, run (hi - lo + 1) s = .next t ∧ some t.crc = crc16 bytes lo hi ∧ t.pending = later ∧
          t.cfg = s.cfg ∧ t.fb = s.fb ∧ t.flen = s.flen ∧ t.recValid = s.recValid ∧ t.record = s.record ∧
          t.rb = s.rb ∧ t.rlen = s.rlen) ∧
    (¬(lo ≤ hi ∧ hi ≤ bytes.length) → crcRangeEvents bytes lo hi = none)

/-- 10_state R11, 43_session R115, 70_reset_and_hazards R140 with 10_state R26: over a whole session `crc` is what
the CRC-port events and resets (to 0x0000) make of it, as if no delivery stood between them. The queue the session
waits in is the model's (log entry 2). -/
def Obligations.CrcOfSessionIgnoresDeliveries : Prop :=
  ∀ s : State, s.Admissible →
    ∃ t, run s.pending.length s = .next t ∧ t.crc = s.pending.foldl PortEvent.crcAfter s.crc

/-! ### The frame classes -/

/-- 41_frame_parser R81: a delivery of fewer than four bytes is Unknown without error, and is not answered. -/
def Obligations.ShortDeliveryIsUnknownAndUnanswered : Prop :=
  ∀ (s : State) (buf : List Byte) (now : Nat), buf.length < 4 → buf.length ≤ s.cfg.maxLen →
    now < 2 ^ s.cfg.timeW →
    ∃ t, exec (.short buf now) s = .next t ∧
      Delivered s t buf {
          mtype := .unknown, pkind := .none, decErr := false, errCause := .none, rxTime := now, imei := .zero,
          gps := .zero } .none []

/-- 41_frame_parser R83, 42_response R101, R102: a Login frame. With twelve bytes or more the IMEI registers take
the eight bytes at offset 4, and the DecodedMessage carries them; with fewer the decode error is recorded, no IMEI
register is set and no payload is carried. With six bytes or more it is answered, in both cases, by the ten bytes
that echo the bytes six and five before its end; with four or five it is not answered. -/
def Obligations.LoginIsDecodedAndAcknowledged : Prop :=
  ∀ (s : State) (hdr : Header) (rest : List Byte) (now : Nat), rest.length + 4 ≤ s.cfg.maxLen →
    now < 2 ^ s.cfg.timeW →
    let buf := frameBytes hdr 0x01 rest
    let h := buf.getD (buf.length - 6) 0
    let l := buf.getD (buf.length - 5) 0
    let v := crcOf [0x05, 0x01, h, l]
    let ack := [0x78, 0x78, 0x05, 0x01, h, l, highByte v, lowByte v, 0x0D, 0x0A]
    (∀ b0 b1 b2 b3 b4 b5 b6 b7 more, rest = b0 :: b1 :: b2 :: b3 :: b4 :: b5 :: b6 :: b7 :: more →
      let bcd := b0 ++ b1 ++ b2 ++ b3 ++ b4 ++ b5 ++ b6 ++ b7
      ∃ t, exec (.login hdr rest now) s = .next t ∧
        Delivered s t buf {
            mtype := .login, pkind := .login, decErr := false, errCause := .none, rxTime := now,
            imei := { bcd := bcd, lz := imeiLz bcd, nondec := imeiNondec bcd }, gps := .zero }
          (.login { bcd := bcd, lz := imeiLz bcd, nondec := imeiNondec bcd }) ack) ∧
    (rest.length < 8 →
      ∃ t, exec (.login hdr rest now) s = .next t ∧
        Delivered s t buf {
            mtype := .login, pkind := .none, decErr := true, errCause := .structuralTooShort, rxTime := now,
            imei := .zero, gps := .zero } .none (if 2 ≤ rest.length then ack else []))

/-- 41_frame_parser R85, R86: a Gps frame. With 21 bytes or more the ten fields are extracted, the year offset by
2000 and nothing validated, and the DecodedMessage carries them; with fewer the decode error is recorded, no `gps_*`
register is set and no payload is carried. No response. -/
def Obligations.GpsIsDecodedAndUnanswered : Prop :=
  ∀ (s : State) (hdr : Header) (rest : List Byte) (now : Nat), rest.length + 4 ≤ s.cfg.maxLen →
    now < 2 ^ s.cfg.timeW →
    (∀ y mo d h mi se a0 a1 a2 a3 o0 o1 o2 o3 sp c0 c1 more,
      rest = y :: mo :: d :: h :: mi :: se :: a0 :: a1 :: a2 :: a3 :: o0 :: o1 :: o2 :: o3 :: sp :: c0 :: c1 :: more →
      let g : GpsRegs := {
        year := BitVec.ofNat 12 (2000 + y.toNat), month := mo, day := d, hour := h, minute := mi, second := se,
        lat := a0 ++ a1 ++ a2 ++ a3, lng := o0 ++ o1 ++ o2 ++ o3, speed := sp, course := c0 ++ c1 }
      ∃ t, exec (.gps hdr rest now) s = .next t ∧
        Delivered s t (frameBytes hdr 0x12 rest) {
            mtype := .gps, pkind := .gps, decErr := false, errCause := .none, rxTime := now, imei := .zero,
            gps := g } (.gps g) [] ∧
        t.record.gps.year.toNat = 2000 + y.toNat) ∧
    (rest.length < 17 →
      ∃ t, exec (.gps hdr rest now) s = .next t ∧
        Delivered s t (frameBytes hdr 0x12 rest) {
            mtype := .gps, pkind := .none, decErr := true, errCause := .structuralTooShort, rxTime := now,
            imei := .zero, gps := .zero } .none [])

/-- 41_frame_parser R88, R89: Status and Alarm frames, whatever follows offset 3. -/
def Obligations.StatusAndAlarmDecodeNothing : Prop :=
  ∀ (s : State) (hdr : Header) (rest : List Byte) (now : Nat), rest.length + 4 ≤ s.cfg.maxLen →
    now < 2 ^ s.cfg.timeW →
    (∃ t, exec (.status hdr rest now) s = .next t ∧
      Delivered s t (frameBytes hdr 0x13 rest) {
          mtype := .status, pkind := .none, decErr := false, errCause := .none, rxTime := now, imei := .zero,
          gps := .zero } .none []) ∧
    (∃ t, exec (.alarm hdr rest now) s = .next t ∧
      Delivered s t (frameBytes hdr 0x16 rest) {
          mtype := .alarm, pkind := .none, decErr := false, errCause := .none, rxTime := now, imei := .zero,
          gps := .zero } .none [])

/-- 41_frame_parser R90, 42_response R103: a Heartbeat frame is answered by the nine-byte literal, whatever it
holds. -/
def Obligations.HeartbeatIsAnsweredByTheLiteral : Prop :=
  ∀ (s : State) (hdr : Header) (rest : List Byte) (now : Nat), rest.length + 4 ≤ s.cfg.maxLen →
    now < 2 ^ s.cfg.timeW →
    ∃ t, exec (.heartbeat hdr rest now) s = .next t ∧
      Delivered s t (frameBytes hdr 0x26 rest) {
          mtype := .heartbeat, pkind := .none, decErr := false, errCause := .none, rxTime := now, imei := .zero,
          gps := .zero } .none
        [0x78, 0x78, 0x05, 0x13, 0x00, 0x01, 0x9D, 0x0D, 0x0A]

/-- 41_frame_parser R91: a protocol number outside the table of R82 is Unknown: no error, no response. 0x22 is
outside it when EXT22 = 0. -/
def Obligations.UnlistedProtocolIsUnknownAndUnanswered : Prop :=
  ∀ (s : State) (hdr : Header) (rest : List Byte) (now : Nat), rest.length + 4 ≤ s.cfg.maxLen →
    now < 2 ^ s.cfg.timeW →
    (∀ p, p ∉ ([0x01, 0x12, 0x13, 0x16, 0x26, 0x22] : List Byte) →
      ∃ t, exec (.unknown hdr p rest now) s = .next t ∧
        Delivered s t (frameBytes hdr p rest) {
            mtype := .unknown, pkind := .none, decErr := false, errCause := .none, rxTime := now, imei := .zero,
            gps := .zero } .none []) ∧
    (s.cfg.ext22 = false →
      ∃ t, exec (.gpsExt22 hdr rest now) s = .next t ∧
        Delivered s t (frameBytes hdr 0x22 rest) {
            mtype := .unknown, pkind := .none, decErr := false, errCause := .none, rxTime := now, imei := .zero,
            gps := .zero } .none [])

/-- 30_encoding R53 and 41_frame_parser R92, which the spec infers ("[derived: from rule R82 and rule R85]"): with
EXT22 = 1 a 0x22 frame has the record and hands over the payload a 0x12 frame of the same bytes has and hands over;
with EXT22 = 0 it is Unknown. Never answered. -/
def Obligations.GpsExt22IsGpsOrUnknownByParameter : Prop :=
  ∀ (s : State) (hdr : Header) (rest : List Byte) (now : Nat), rest.length + 4 ≤ s.cfg.maxLen →
    now < 2 ^ s.cfg.timeW →
    (s.cfg.ext22 = true →
      ∃ t u p, exec (.gpsExt22 hdr rest now) s = .next t ∧ exec (.gps hdr rest now) s = .next u ∧
        Delivered s t (frameBytes hdr 0x22 rest) u.record p [] ∧
        Delivered s u (frameBytes hdr 0x12 rest) u.record p []) ∧
    (s.cfg.ext22 = false →
      ∃ t, exec (.gpsExt22 hdr rest now) s = .next t ∧
        Delivered s t (frameBytes hdr 0x22 rest) {
            mtype := .unknown, pkind := .none, decErr := false, errCause := .none, rxTime := now, imei := .zero,
            gps := .zero } .none [])

/-! ### The acknowledgments -/

/-- 42_response R101, 30_encoding R60: the ten bytes of ACK_LOGIN, and nothing but RB and `rlen` written. That the
row on its own emits nothing is the model's reading (log entry 6). -/
def Obligations.AckLoginFormatsTenBytes : Prop :=
  ∀ (s : State) (h l : Byte), ∃ t, exec (.ackLogin h l) s = .next t ∧ SameButResponse s t ∧ t.rlen = 10 ∧
    ∀ i, i < 10 → t.rbRead i = [0x78, 0x78, 0x05, 0x01, h, l, highByte (crcOf [0x05, 0x01, h, l]),
      lowByte (crcOf [0x05, 0x01, h, l]), 0x0D, 0x0A][i]?

/-- 42_response R103, 30_encoding R61: the nine bytes of ACK_HEARTBEAT, RB[9] = 0x00, and nothing but RB and `rlen`
written. That the row on its own emits nothing is the model's reading (log entry 6). -/
def Obligations.AckHeartbeatFormatsTheLiteral : Prop :=
  ∀ s : State, ∃ t, exec .ackHeartbeat s = .next t ∧ SameButResponse s t ∧ t.rlen = 9 ∧
    ∀ i, i < 10 → t.rbRead i = [0x78, 0x78, 0x05, 0x13, 0x00, 0x01, 0x9D, 0x0D, 0x0A, 0x00][i]?

/-- 42_response R107, which the spec infers ("[derived: from rule R101]"): the round trip of every ACK_LOGIN;
ACK_HEARTBEAT does not satisfy it. -/
def Obligations.AckLoginChecksumVerifies : Prop :=
  (∀ (s : State) (h l : Byte), ∃ t, exec (.ackLogin h l) s = .next t ∧
    crc16 (rbBytes t.rb 10) 2 6 = some (rbCell t.rb 6 ++ rbCell t.rb 7) ∧
    crc16 (rbBytes t.rb 10) 2 8 = some 0x0000) ∧
  (∀ s : State, ∃ t, exec .ackHeartbeat s = .next t ∧
    crc16 (rbBytes t.rb 9) 2 6 ≠ some (rbCell t.rb 6 ++ rbCell t.rb 7))

/-! ### DELIVER -/

/-- 43_session R110, 41_frame_parser R82, R94, 42_response R100: DELIVER completes for every delivery that fits. The
type is that of byte 3 (Unknown below four bytes); the decode error is recorded exactly for Login below twelve bytes
and Gps below 21; the payload handed over is the IMEI registers for a decoded Login, the `gps_*` registers for a
decoded Gps and none otherwise (10_state R14, R16); the response is by the type alone, and by flen for Login; the
record goes out before it. -/
def Obligations.DeliverCompletesWithRecordThenResponse : Prop :=
  ∀ (s : State) (buf : List Byte) (now : Nat), buf.length ≤ s.cfg.maxLen → now < 2 ^ s.cfg.timeW →
    ∃ t r p resp, exec (.deliver buf now) s = .next t ∧ Delivered s t buf r p resp ∧ r.rxTime = now ∧
      (buf.length < 4 → r.mtype = .unknown) ∧
      (∀ b, buf[3]? = some b → r.mtype =
        if b = 0x01 then .login else if b = 0x12 then .gps else if b = 0x13 then .status
        else if b = 0x16 then .alarm else if b = 0x26 then .heartbeat
        else if b = 0x22 ∧ s.cfg.ext22 = true then .gps else .unknown) ∧
      (r.decErr = true ↔ r.mtype = .login ∧ buf.length ≤ 11 ∨ r.mtype = .gps ∧ buf.length ≤ 20) ∧
      (r.decErr = true → r.errCause = .structuralTooShort ∧ r.errCause.code = 1) ∧
      (r.decErr = false → r.errCause = .none ∧ r.errCause.code = 0) ∧
      (r.mtype = .login ∧ r.decErr = false → r.pkind = .login ∧ p = .login r.imei ∧ r.gps = .zero) ∧
      (r.mtype = .gps ∧ r.decErr = false → r.pkind = .gps ∧ p = .gps r.gps ∧ r.imei = .zero) ∧
      (r.decErr = true ∨ r.mtype ≠ .login ∧ r.mtype ≠ .gps →
        r.pkind = .none ∧ p = .none ∧ r.imei = .zero ∧ r.gps = .zero) ∧
      resp = (match r.mtype with
        | .login => if 6 ≤ buf.length then
            ackLoginBytes (buf.getD (buf.length - 6) 0) (buf.getD (buf.length - 5) 0) else []
        | .heartbeat => [0x78, 0x78, 0x05, 0x13, 0x00, 0x01, 0x9D, 0x0D, 0x0A]
        | .gps => [] | .status => [] | .alarm => [] | .unknown => [])

/-- 00_scope R7: a DELIVER is the row its delivery decodes to. The two descriptions of the spec, the general one
(`decode` R80, `buildResponse` R100) and the row's own (R81 to R92), agree on every delivery and every state. That a
row taken as an instruction is the whole delivery is read from R7 (log entry 12), and that 0x22 has its own
constructor for both values of EXT22 is the model's choice (log entry 5). -/
def Obligations.DeliverDispatchesToItsRow : Prop :=
  ∀ (s : State) (buf : List Byte) (now : Nat), exec (.deliver buf now) s = exec (decodeFrame buf now) s

/-- 70_reset_and_hazards R147: a delivery longer than MAXLEN has no step, by whichever row it is typed; one of
exactly MAXLEN bytes has. -/
def Obligations.DeliveryBeyondCapacityIsRefused : Prop :=
  ∀ (s : State) (buf : List Byte) (now : Nat),
    (s.cfg.maxLen < buf.length → exec (.deliver buf now) s = .refused .deliveryTooLong ∧
      exec (decodeFrame buf now) s = .refused .deliveryTooLong) ∧
    (s.cfg.maxLen = buf.length → now < 2 ^ s.cfg.timeW → ∃ t, exec (.deliver buf now) s = .next t)

/-- The model's choice (log entry 9): `now` is a TIMEW-bit sample (43_session R110), so a wider number is no operand
and is refused. -/
def Obligations.TimeSampleBeyondItsWidthIsRefused : Prop :=
  ∀ (s : State) (buf : List Byte) (now : Nat), buf.length ≤ s.cfg.maxLen → 2 ^ s.cfg.timeW ≤ now →
    exec (.deliver buf now) s = .refused .sampleTooWide ∧ exec (decodeFrame buf now) s = .refused .sampleTooWide

/-- The model's choice (log entry 10): SHORT on four bytes or more and UNKNOWN on a protocol number with a row of
its own are refused, and the decoder never gives them. -/
def Obligations.RowOutsideItsConditionIsRefused : Prop :=
  (∀ (s : State) (buf : List Byte) (now : Nat), 4 ≤ buf.length →
    exec (.short buf now) s = .refused .rowConditionNotMet) ∧
  (∀ (s : State) (hdr : Header) (p : Byte) (rest : List Byte) (now : Nat),
    p ∈ ([0x01, 0x12, 0x13, 0x16, 0x26, 0x22] : List Byte) →
    exec (.unknown hdr p rest now) s = .refused .rowConditionNotMet) ∧
  (∀ (s : State) (buf : List Byte) (now : Nat), exec (decodeFrame buf now) s ≠ .refused .rowConditionNotMet)

/-- 41_frame_parser R95, which the spec infers ("[derived: from rule R80 and 10_state.md rule R24]"): whatever the
two states before, equal deliveries give equal record registers except `rx_time`, equal buffers and equal responses.
-/
def Obligations.DeliveryResultIgnoresPriorState : Prop :=
  ∀ (s₁ s₂ : State) (buf : List Byte) (n₁ n₂ : Nat), s₁.cfg = s₂.cfg → buf.length ≤ s₁.cfg.maxLen →
    n₁ < 2 ^ s₁.cfg.timeW → n₂ < 2 ^ s₁.cfg.timeW →
    ∃ t₁ t₂, exec (.deliver buf n₁) s₁ = .next t₁ ∧ exec (.deliver buf n₂) s₂ = .next t₂ ∧
      t₁.record.rxTime = n₁ ∧ t₂.record.rxTime = n₂ ∧
      { t₁.record with rxTime := n₂ } = t₂.record ∧ t₁.fb = t₂.fb ∧ t₁.flen = t₂.flen ∧
      t₁.recValid = t₂.recValid ∧ t₁.rb = t₂.rb ∧ t₁.rlen = t₂.rlen

/-- 30_encoding R51: of a delivery only its length, byte 3, for Login offsets 4 to 11 and the two bytes six and five
before the end, and for Gps offsets 4 to 20 bear on the record registers and the response. -/
def Obligations.OnlyExaminedBytesBearOnResults : Prop :=
  ∀ (s : State) (buf buf' : List Byte) (now : Nat), buf.length ≤ s.cfg.maxLen → now < 2 ^ s.cfg.timeW →
    buf.length = buf'.length → buf[3]? = buf'[3]? →
    (buf[3]? = some 0x01 → (∀ i, 4 ≤ i → i ≤ 11 → buf[i]? = buf'[i]?) ∧
      (6 ≤ buf.length → buf[buf.length - 6]? = buf'[buf.length - 6]? ∧
        buf[buf.length - 5]? = buf'[buf.length - 5]?)) →
    (buf[3]? = some 0x12 ∨ buf[3]? = some 0x22 ∧ s.cfg.ext22 = true →
      ∀ i, 4 ≤ i → i ≤ 20 → buf[i]? = buf'[i]?) →
    ∃ t t', exec (.deliver buf now) s = .next t ∧ exec (.deliver buf' now) s = .next t' ∧
      t.record = t'.record ∧ t.rb = t'.rb ∧ t.rlen = t'.rlen

/-! ### Memory and fields -/

/-- 20_memory R33, R32, 30_encoding R58: `MemRead` raises StructuralTooShort exactly when it would pass the end of
the delivery, and otherwise gives the unsigned big-endian value. -/
def Obligations.MemReadIsBoundedAndBigEndian : Prop :=
  ∀ (fb : Memory) (flen off : Nat) (cell : Nat → Byte), (∀ i, i < flen → fb.read .fb i = some (cell i)) →
    (flen < off + 1 → memRead1 fb flen off = .error (.structuralTooShort off 1)) ∧
    (flen < off + 2 → memRead2 fb flen off = .error (.structuralTooShort off 2)) ∧
    (flen < off + 4 → memRead4 fb flen off = .error (.structuralTooShort off 4)) ∧
    (off + 1 ≤ flen → memRead1 fb flen off = .ok (cell off)) ∧
    (off + 2 ≤ flen → ∃ v, memRead2 fb flen off = .ok v ∧
      v.toNat = (cell off).toNat * 256 + (cell (off + 1)).toNat) ∧
    (off + 4 ≤ flen → ∃ v, memRead4 fb flen off = .ok v ∧
      v.toNat = (cell off).toNat * 2 ^ 24 + (cell (off + 1)).toNat * 2 ^ 16 + (cell (off + 2)).toNat * 2 ^ 8 +
        (cell (off + 3)).toNat)

/-- 20_memory R34, which the spec infers ("[derived: from 30_encoding.md rule R50]"): the tail-relative read, not
made below six bytes. -/
def Obligations.TailReadTakesBytesSixAndFiveBeforeTheEnd : Prop :=
  ∀ (fb : Memory) (flen : Nat) (cell : Nat → Byte), (∀ i, i < flen → fb.read .fb i = some (cell i)) →
    (6 ≤ flen → tailSerial fb flen = .ok (some (cell (flen - 6), cell (flen - 5)))) ∧
    (flen < 6 → tailSerial fb flen = .ok none)

/-- 20_memory R38: `MemWrite` writes big-endian and changes no other cell, inside the ten offsets of RB (R30). That
it keeps the list RB is held in in canonical form is about the model's representation of memory (log entry 13). -/
def Obligations.MemWriteIsBigEndianAndLocal : Prop :=
  ∀ (rb : Memory) (off : Nat), rb.wf .rb → (∀ c ∈ rb, c.1 < 10) →
    (∀ v : Byte, off + 1 ≤ 10 →
      (∀ a, rbCell (memWrite1 rb off v) a = if a = off then v else rbCell rb a) ∧
      (memWrite1 rb off v).wf .rb ∧ (∀ c ∈ memWrite1 rb off v, c.1 < 10)) ∧
    (∀ v : BitVec 16, off + 2 ≤ 10 →
      (∀ a, rbCell (memWrite2 rb off v) a =
        if a = off then v.extractLsb' 8 8 else if a = off + 1 then v.extractLsb' 0 8 else rbCell rb a) ∧
      (memWrite2 rb off v).wf .rb ∧ (∀ c ∈ memWrite2 rb off v, c.1 < 10))

/-- 41_frame_parser R84: `imei_lz` is the least k in 0..15 whose digit is not 0, or 16; `imei_nondec` says that some
digit exceeds 9. -/
def Obligations.ImeiFlagsCountLeadingZerosAndNondecimals : Prop :=
  ∀ bcd : BitVec 64,
    (imeiLz bcd).toNat ≤ 16 ∧ (∀ k, k < (imeiLz bcd).toNat → imeiDigit bcd k = 0) ∧
    ((imeiLz bcd).toNat < 16 → imeiDigit bcd (imeiLz bcd).toNat ≠ 0) ∧
    (imeiNondec bcd = true ↔ ∃ k, k < 16 ∧ 9 < (imeiDigit bcd k).toNat)

/-- 30_encoding R57: digit 2j of the IMEI register is the high nibble of its byte j, digit 2j+1 the low nibble. -/
def Obligations.ImeiDigitsAreNibblesHighFirst : Prop :=
  ∀ b0 b1 b2 b3 b4 b5 b6 b7 : Byte, ∀ j, j < 8 →
    let bcd := b0 ++ b1 ++ b2 ++ b3 ++ b4 ++ b5 ++ b6 ++ b7
    let b := [b0, b1, b2, b3, b4, b5, b6, b7].getD j 0
    imeiDigit bcd (2 * j) = b.extractLsb' 4 4 ∧ imeiDigit bcd (2 * j + 1) = b.extractLsb' 0 4

/-- 41_frame_parser R84: the IMEI string has 16 - `imei_lz` characters, those of digits `imei_lz` to 15; for a
decimal IMEI they are the decimal characters. (For a nibble above 9 the character is the model's free value, log
entry 11, and nothing is said of it.) -/
def Obligations.ImeiStringIsTheDigitsAfterLeadingZeros : Prop :=
  ∀ bcd : BitVec 64, (imeiOf bcd).chars.length = 16 - (imeiLz bcd).toNat ∧
    (imeiNondec bcd = false → ∀ k, k < 16 - (imeiLz bcd).toNat →
      (imeiOf bcd).chars[k]? = some (Char.ofNat (48 + (imeiDigit bcd ((imeiLz bcd).toNat + k)).toNat))) ∧
    (imeiOf bcd).string.toList = (imeiOf bcd).chars

/-- 30_encoding R67: `hexlower` gives two characters a byte, high nibble first, from the sixteen lowercase digits,
and `rawHex` is that text of the raw bytes (41_frame_parser R93). That the high nibble comes first is PRESUMED (log
entry 17): R67 itself marks it "[from general knowledge, not in source]" (93_implementation_defined G2). -/
def Obligations.HexlowerRendersTwoDigitsPerByte : Prop :=
  (∀ n : BitVec 4, some (hexDigit n) = ['0', '1', '2', '3', '4', '5', '6', '7', '8', '9', 'a', 'b', 'c', 'd', 'e',
    'f'][n.toNat]?) ∧
  (∀ bytes : List Byte, (hexlower bytes).length = 2 * bytes.length ∧
    ∀ i, ∀ h : i < bytes.length, (hexlower bytes)[2 * i]? = some (hexDigit (bytes[i].extractLsb' 4 4)) ∧
      (hexlower bytes)[2 * i + 1]? = some (hexDigit (bytes[i].extractLsb' 0 4))) ∧
  ∀ m : DecodedMessage, m.rawHex.toList = hexlower m.raw

/-- 41_frame_parser R87: a coordinate in degrees is the exact rational raw / 1 800 000, of the unsigned raw value.
-/
def Obligations.DegreesAreExactRationals : Prop :=
  ∀ g : GpsRegs, g.latitude * 1800000 = (g.lat.toNat : Rat) ∧ g.longitude * 1800000 = (g.lng.toNat : Rat) ∧
    0 ≤ g.latitude ∧ 0 ≤ g.longitude

/-! ### Encodings -/

/-- 30_encoding R52, R53: the type table, with the codes of 10_state R15; and the codes of the payload kinds (R16)
and of the causes (60_exceptions R125), where the unused codes stand for nothing. -/
def Obligations.TypeTableMatchesAllEightBits : Prop :=
  ∀ (ext22 : Bool) (p : Byte),
    ((classify ext22 p).code = 1 ↔ p = 0x01) ∧
    ((classify ext22 p).code = 2 ↔ p = 0x12 ∨ p = 0x22 ∧ ext22 = true) ∧
    ((classify ext22 p).code = 3 ↔ p = 0x13) ∧ ((classify ext22 p).code = 4 ↔ p = 0x16) ∧
    ((classify ext22 p).code = 5 ↔ p = 0x26) ∧ (classify ext22 p).code ≠ 6 ∧ (classify ext22 p).code ≠ 7 ∧
    [MsgType.unknown, .login, .gps, .status, .alarm, .heartbeat].map MsgType.code = [0, 1, 2, 3, 4, 5] ∧
    [PayloadKind.none, .login, .gps].map PayloadKind.code = [0, 1, 2] ∧ (∀ k : PayloadKind, k.code ≠ 3) ∧
    [ErrCause.none, .structuralTooShort].map ErrCause.code = [0, 1] ∧ (∀ k : ErrCause, k.code ≠ 2 ∧ k.code ≠ 3)

/-- Every well-formed instruction is decoded from its encoding, with every operand. DELIVER has no encoding of its
own (opcode table): it decodes to the row of its delivery (`Instr.classified`). -/
def Obligations.DecodeOfEncodeIsTheInstruction : Prop :=
  ∀ i : Instr, i.wf = true → decode (encode i) = .ok i.classified

/-- 30_encoding R63: no delivery is illegal; each decodes to a well-formed instruction whose encoding is that
delivery and no other, so no byte is dropped. -/
def Obligations.EveryDeliveryDecodesAndEncodesBack : Prop :=
  ∀ (buf : List Byte) (now : Nat), (decodeFrame buf now).wf = true ∧
    encode (decodeFrame buf now) = .event (.deliver buf now)

/-- An outbound frame the decoder accepts is the encoding of what it reads: no other bytes pass for ACK_LOGIN or
ACK_HEARTBEAT (30_encoding R60, R61). -/
def Obligations.AcceptedResponsesAreExactEncodings : Prop :=
  ∀ (bytes : List Byte) (i : Instr), decodeAck bytes = .ok i → encode i = .response bytes

/-- The model's convention (log entry 4): which number of how many bits stands for which instruction (big-endian
bytes, exactly that many, now = 0; eight bits for CRC.UPD, to which 40_crc R75 gives no bit encoding). Under it,
bytes written out from 30_encoding R52, R60 and R61 decode to their rows. -/
def Obligations.TableWordsDecodeToTheirRows : Prop :=
  decodeTableWord 32 0x78780D01 = some (.login ⟨0x78, 0x78, 0x0D⟩ [] 0) ∧
  decodeTableWord 32 0x78781612 = some (.gps ⟨0x78, 0x78, 0x16⟩ [] 0) ∧
  decodeTableWord 32 0x78780A13 = some (.status ⟨0x78, 0x78, 0x0A⟩ [] 0) ∧
  decodeTableWord 32 0x78780516 = some (.alarm ⟨0x78, 0x78, 0x05⟩ [] 0) ∧
  decodeTableWord 32 0x78780526 = some (.heartbeat ⟨0x78, 0x78, 0x05⟩ [] 0) ∧
  decodeTableWord 32 0x78781622 = some (.gpsExt22 ⟨0x78, 0x78, 0x16⟩ [] 0) ∧
  decodeTableWord 32 0x78780580 = some (.unknown ⟨0x78, 0x78, 0x05⟩ 0x80 [] 0) ∧
  decodeTableWord 24 0x787801 = some (.short [0x78, 0x78, 0x01] 0) ∧
  decodeTableWord 80 0x7878050100019B540D0A = some (.ackLogin 0x00 0x01) ∧
  decodeTableWord 72 0x7878051300019D0D0A = some .ackHeartbeat ∧
  decodeTableWord 8 0x05 = some (.crcUpd 0x05)

/-- The model's convention (log entry 4): an outbound row is run by the delivery it answers, which leaves in RB and
`rlen` what the row leaves. -/
def Obligations.OutboundRowsRunInsideADelivery : Prop :=
  ∀ (s : State) (i : Instr), s.cfg.wf → (i = .ackHeartbeat ∨ ∃ h l, i = .ackLogin h l) →
    ∃ t u, exec (decodeEvent (eventFor (encode i))) s = .next t ∧ exec i s = .next u ∧
      t.rb = u.rb ∧ t.rlen = u.rlen

/-! ### Steps and invariants -/

/-- A step runs the instruction the oldest pending event decodes to, which is well-formed, on the state in which
that event is pending no more (00_scope R7; the queue is the model's, log entry 2). -/
def Obligations.StepRunsTheOldestEvent : Prop :=
  ∀ (s : State) (e : PortEvent) (es : List PortEvent), s.pending = e :: es →
    decode (.event e) = .ok (decodeEvent e) ∧ (decodeEvent e).wf = true ∧
    step s = exec (decodeEvent e) { s with pending := es }

/-- 60_exceptions R133, which the spec infers ("[derived: from 00_scope.md rule R4]"): with no event pending the
block is idle and keeps all its state. -/
def Obligations.StepWithoutEventChangesNothing : Prop :=
  ∀ s : State, s.pending = [] → step s = .next s

/-- The model's convention (log entry 4): a word of an inbound row or of CRC.UPD, placed as the next event, is what
the next step decodes and runs. -/
def Obligations.PlacedWordIsTheNextInstruction : Prop :=
  ∀ (s : State) (nbits w : Nat) (i : Instr), nbits ≠ 72 → nbits ≠ 80 → decodeTableWord nbits w = some i →
    step (s.withFetchWord nbits w) = exec i s

/-- At reset every invariant holds (10_state R12, R13, R14, R16, R17, R20, R26). That the parameters are admissible
(00_scope R5) rests on the values 1024 and 64 the model puts there (log entry 1), that the pending events are, on
the empty queue (log entry 2), and the canonical form of the memories is the model's (log entry 13): the model's
choices. -/
def Obligations.InvariantsHoldAtReset : Prop :=
  State.reset.cfg.wf ∧ State.reset.MemoryInv ∧ State.reset.record.Inv State.reset.cfg ∧
    State.reset.ResponseInv ∧ State.reset.Coherent ∧ State.reset.Admissible

/-- 10_state R12, R13, 20_memory R30: every step keeps FB holding exactly the current delivery, which fits, and both
memories inside their address spaces. That both are lists in canonical form is the model's representation of memory
(log entry 13); that a step takes its event from a queue is the model's too (log entry 2). -/
def Obligations.StepKeepsMemoriesCanonical : Prop :=
  ∀ s t : State, s.MemoryInv → step s = .next t → t.MemoryInv

/-- 10_state R16, R17: every step keeps the record registers consistent: which payload with which type, zero payload
registers, the error flag and its cause, the ranges. -/
def Obligations.StepKeepsRecordConsistent : Prop :=
  ∀ s t : State, s.record.Inv s.cfg → step s = .next t → t.record.Inv t.cfg

/-- 10_state R20: every step keeps `rlen` one of 0, 9, 10, RB[9] 0x00 when it is 9 and all of RB 0x00 when it is 0.
-/
def Obligations.StepKeepsResponseLengths : Prop :=
  ∀ s t : State, s.ResponseInv → step s = .next t → t.ResponseInv

/-- 10_state R14, R24: every step keeps the registers those of the delivery in FB: at their reset values while
`rec_valid` is 0, and after it the record and the response that this delivery alone determines. -/
def Obligations.StepKeepsRegistersThoseOfTheDelivery : Prop :=
  ∀ s t : State, s.Coherent → step s = .next t → t.Coherent

/-- 10_state R23: no event writes the parameters. That no instruction touches the events still pending (log entry
2), and that what was observed (00_scope R9) is only ever added to (log entry 3), are about the model's own fields.
-/
def Obligations.NoInstructionChangesParameters : Prop :=
  ∀ (i : Instr) (s t : State), exec i s = .next t → t.cfg = s.cfg ∧ t.pending = s.pending ∧
    s.observed <+: t.observed

/-- 10_state R14: `rec_valid` is 0 after RESET, 1 after a DELIVER, and otherwise as it was. That a step runs the
oldest event of a queue is the model's (log entry 2). -/
def Obligations.RecValidIsSetByDeliverOnly : Prop :=
  ∀ (s t : State), step s = .next t →
    t.recValid = (match s.pending.head? with
      | some (.deliver _ _) => true
      | some .reset => false
      | some (.crcUpd _) => s.recValid
      | some .crcClr => s.recValid
      | none => s.recValid)

/-- 70_reset_and_hazards R150, which the spec infers ("[derived: from 43_session.md rule R110 and 40_crc.md rule
R72]"); that events wait in a queue is the model's (log entry 2): a session whose deliveries fit runs to its end: no
state is stuck, and one step an event suffices. -/
def Obligations.AdmissibleSessionRunsToItsEnd : Prop :=
  ∀ s : State, s.Admissible → ∃ t, run s.pending.length s = .next t ∧ t.pending = [] ∧ t.cfg = s.cfg

/-- 43_session R112, 42_response R105: over a whole session exactly one record is handed over per DELIVER, and at
most one response per DELIVER is sent; what was observed before stays. The queue (log entry 2) and the list of
observations (log entry 3) are the model's. -/
def Obligations.SessionHandsOverOneRecordPerDelivery : Prop :=
  ∀ s : State, s.Admissible → ∃ t new, run s.pending.length s = .next t ∧ t.observed = s.observed ++ new ∧
    (new.filter Observation.isRecord).length = (s.pending.filter PortEvent.isDeliver).length ∧
    (new.filter Observation.isResponse).length ≤ (s.pending.filter PortEvent.isDeliver).length

/-- 43_session R110 ("always completes") and R115, in the terms of the model's queue (log entry 2): from every state
whose pending events fit the parameters, with one pending, a step answers a next state, in which the remaining events
are pending and still fit. -/
def Obligations.AdmissibleStateStepsWithOneEventFewer : Prop :=
  ∀ (s : State) (e : PortEvent) (es : List PortEvent), s.Admissible → s.pending = e :: es →
    ∃ t, step s = .next t ∧ t.pending = es ∧ t.cfg = s.cfg ∧ t.Admissible
end

