-- ==== Sys2Proof/Laws/Crc.lean ====
section
/-! SUPPORT. The small laws of the Checksum Engine's functions. -/

namespace Sys2Proof

@[simp] theorem crcRounds_zero (c : CrcWord) : crcRounds 0 c = c := rfl

@[simp] theorem crcRounds_succ (n : Nat) (c : CrcWord) : crcRounds (n + 1) c = crcRounds n (crcRound c) := rfl

@[simp] theorem crcOf_nil : crcOf [] = 0x0000 := rfl

/-- The byte in bits 15:8. -/
theorem append_zero_eq_shift : ∀ b : Byte, b ++ (0 : BitVec 8) = b.setWidth 16 <<< 8 := by decide

/-- A 16-bit value is its two halves, the high one first. -/
theorem highByte_append_lowByte (v : CrcWord) : highByte v ++ lowByte v = v := by
  apply BitVec.eq_of_toNat_eq
  simp only [highByte, lowByte, BitVec.toNat_append, BitVec.extractLsb'_toNat]
  have := v.isLt
  rw [← Nat.shiftLeft_add_eq_or_of_lt (by omega)]
  simp only [Nat.shiftLeft_eq, Nat.shiftRight_eq_div_pow]
  omega

theorem crc16_of_le {bytes : List Byte} {s e : Nat} (h : s ≤ e) (h' : e ≤ bytes.length) :
    crc16 bytes s e = some (crcOf (slice bytes s e)) := if_pos ⟨h, h'⟩

theorem slice_length {bytes : List Byte} {s e : Nat} (h' : e ≤ bytes.length) :
    (slice bytes s e).length = e - s := by
  simp [slice]; omega

end Sys2Proof
end

