-- ==== Sys2Proof/Laws/Memory.lean ====
section
/-! SUPPORT. The laws of the two memories: what a read gives after a write or a load, that every operation keeps the
canonical form, and that a memory in canonical form is determined by its reads. -/

namespace Sys2Proof.Machine.Memory

@[simp] theorem find_nil (a : Nat) : find [] a = none := rfl

theorem find_cons (c : Host.Cell) (m : Memory) (a : Nat) :
    find (c :: m) a = if c.1 = a then some c.2 else find m a := rfl

theorem find_insert (m : Memory) (a a' : Nat) (b : Byte) :
    (m.insert a b).find a' = if a' = a then some b else m.find a' := by
  induction m with
  | nil => simp [insert, find_cons, eq_comm]
  | cons c t ih =>
    unfold insert
    split
    · simp [find_cons, eq_comm]
    · split
      · rename_i _ h
        simp only [find_cons]
        by_cases h' : a = a'
        · simp [h']
        · simp [h', h, Ne.symm h']
      · rename_i _ h
        simp only [find_cons, ih]
        by_cases h' : c.1 = a'
        · simp [h', show a' ≠ a from fun e => h (h'.trans e)]
        · simp [h']

theorem find_erase (m : Memory) (a a' : Nat) :
    find (m.filter (fun c => c.1 ≠ a)) a' = if a' = a then none else find m a' := by
  induction m with
  | nil => simp
  | cons c t ih =>
    by_cases hc : c.1 = a
    · rw [List.filter_cons_of_neg (by simp [hc]), ih, find_cons]
      by_cases h' : a' = a
      · simp [h']
      · simp [h', hc, Ne.symm h']
    · rw [List.filter_cons_of_pos (by simp [hc]), find_cons, ih, find_cons]
      by_cases h' : c.1 = a'
      · simp [h', show a' ≠ a from fun e => hc (h'.trans e)]
      · simp [h']

/-- A read after a write: the byte written at its offset, every other offset as before. -/
theorem read_write (sp : Space) (m : Memory) (a a' : Nat) (b : Byte) :
    (m.write sp a b).read sp a' = if a' = a then some b else m.read sp a' := by
  simp only [write, read]
  by_cases h : unlisted sp = some b
  · rw [if_pos h, find_erase]
    by_cases h' : a' = a <;> simp [h', h]
  · rw [if_neg h, find_insert]
    by_cases h' : a' = a <;> simp [h']

theorem find_ofBytes (bs : List Byte) (base a : Nat) :
    (ofBytes base bs).find a = if a < base then none else bs[a - base]? := by
  induction bs generalizing base with
  | nil => simp [ofBytes]
  | cons b t ih =>
    rw [ofBytes, find_cons, ih]
    rcases Nat.lt_trichotomy a base with h | rfl | h
    · simp [h, show base ≠ a by omega, show a < base + 1 by omega]
    · simp
    · obtain ⟨k, rfl⟩ : ∃ k, a = base + 1 + k := ⟨a - (base + 1), by omega⟩
      rw [if_neg (by omega), if_neg (by omega), if_neg (by omega), show base + 1 + k - base = k + 1 by omega,
        show base + 1 + k - (base + 1) = k by omega, List.getElem?_cons_succ]

/-- A loaded frame buffer holds the delivery's bytes, and no other cell has a value. -/
@[simp] theorem read_load (bs : List Byte) (a : Nat) : (ofBytes 0 bs).read .fb a = bs[a]? := by
  unfold read
  rw [find_ofBytes]
  simp [unlisted]

@[simp] theorem read_rb_nil (a : Nat) : read .rb [] a = some 0x00 := rfl

theorem bytes_load_from (bs : List Byte) (k n : Nat) (h : k + n = bs.length) :
    bytes .fb (ofBytes 0 bs) k n = some (bs.drop k) := by
  induction n generalizing k with
  | zero => simp [bytes, List.drop_eq_nil_of_le (show bs.length ≤ k by omega)]
  | succ n ih =>
    have hk : k < bs.length := by omega
    rw [bytes, read_load, ih (k + 1) (by omega), List.getElem?_eq_getElem hk]
    rw [List.drop_eq_getElem_cons hk]

/-- The raw bytes of a loaded delivery are the delivery. -/
@[simp] theorem bytes_load (bs : List Byte) : bytes .fb (ofBytes 0 bs) 0 bs.length = some bs := by
  simpa using bytes_load_from bs 0 bs.length (by omega)

/-! ### The canonical form -/

theorem fst_ofBytes (bs : List Byte) (base : Nat) :
    (ofBytes base bs).map Prod.fst = List.range' base bs.length := by
  induction bs generalizing base with
  | nil => rfl
  | cons b t ih => rw [ofBytes, List.map_cons, ih, List.length_cons, List.range'_succ]

theorem wf_ofBytes (bs : List Byte) (base : Nat) : (ofBytes base bs).wf .fb := by
  refine ⟨?_, fun c _ => by simp [unlisted]⟩
  rw [fst_ofBytes]
  exact List.pairwise_lt_range'

theorem mem_insert (m : Memory) (a : Nat) (b : Byte) (c : Host.Cell) (h : c ∈ m.insert a b) :
    c = (a, b) ∨ c ∈ m := by
  induction m with
  | nil => simpa [insert] using h
  | cons d t ih =>
    unfold insert at h
    split at h
    · simpa using h
    · split at h
      · rcases List.mem_cons.1 h with h | h <;> simp [h]
      · rcases List.mem_cons.1 h with h | h
        · simp [h]
        · rcases ih h with h | h <;> simp [h]

theorem rising_insert (m : Memory) (a : Nat) (b : Byte) (h : (m.map Prod.fst).Pairwise (· < ·)) :
    ((m.insert a b).map Prod.fst).Pairwise (· < ·) := by
  induction m with
  | nil => simp [insert]
  | cons c t ih =>
    have hc : ∀ x ∈ t, c.1 < x.1 := by simpa using (List.pairwise_cons.1 h).1
    have ht := (List.pairwise_cons.1 h).2
    unfold insert
    split
    · rename_i hlt
      rw [List.map_cons, List.pairwise_cons]
      refine ⟨fun y hy => ?_, h⟩
      obtain ⟨x, hx, rfl⟩ := List.mem_map.1 hy
      rcases List.mem_cons.1 hx with rfl | hx
      · exact hlt
      · exact hlt.trans (hc x hx)
    · split
      · rename_i _ he
        subst he
        exact h
      · rw [List.map_cons, List.pairwise_cons]
        refine ⟨fun y hy => ?_, ih ht⟩
        obtain ⟨x, hx, rfl⟩ := List.mem_map.1 hy
        rcases mem_insert t a b x hx with rfl | hx
        · simp only; omega
        · exact hc x hx

/-- A write keeps the canonical form. -/
theorem wf_write (sp : Space) (m : Memory) (a : Nat) (b : Byte) (h : m.wf sp) : (m.write sp a b).wf sp := by
  unfold write
  split
  · exact ⟨h.1.sublist (List.Sublist.map _ List.filter_sublist), fun c hc => h.2 c (List.mem_of_mem_filter hc)⟩
  · rename_i hb
    refine ⟨rising_insert m a b h.1, fun c hc => ?_⟩
    rcases mem_insert m a b c hc with rfl | hc
    · exact fun e => hb e.symm
    · exact h.2 c hc

theorem offsets_write (sp : Space) (m : Memory) (a n : Nat) (b : Byte) (ha : a < n) (h : ∀ c ∈ m, c.1 < n) :
    ∀ c ∈ m.write sp a b, c.1 < n := by
  intro c hc
  unfold write at hc
  split at hc
  · exact h c (List.mem_of_mem_filter hc)
  · rcases mem_insert m a b c hc with rfl | hc
    · exact ha
    · exact h c hc

theorem find_eq_none_of_lt (m : Memory) (a : Nat) (h : ∀ c ∈ m, a < c.1) : m.find a = none := by
  induction m with
  | nil => rfl
  | cons c t ih =>
    have := h c (by simp)
    rw [find_cons, if_neg (by omega), ih fun d hd => h d (by simp [hd])]

/-- In canonical form, equal reads are equal memories. -/
theorem ext_of_wf (sp : Space) (m m' : Memory) (h : m.wf sp) (h' : m'.wf sp)
    (e : ∀ a, m.read sp a = m'.read sp a) : m = m' := by
  have key : ∀ (m m' : Memory), m.wf sp → m'.wf sp → (∀ a, m.read sp a = m'.read sp a) →
      ∀ a, m.find a = m'.find a := by
    have some_ne : ∀ (m : Memory), m.wf sp → ∀ a b, m.find a = some b → some b ≠ unlisted sp := by
      intro m hm a b hab
      induction m with
      | nil => simp at hab
      | cons c t ih =>
        rw [find_cons] at hab
        split at hab
        · cases hab; exact hm.2 c (by simp)
        · exact ih ⟨(List.pairwise_cons.1 hm.1).2, fun d hd => hm.2 d (by simp [hd])⟩ hab
    intro m m' hm hm' e a
    have ea := e a
    unfold read at ea
    cases hx : m.find a <;> cases hy : m'.find a <;> rw [hx, hy] at ea
    · exact absurd (by simpa using ea.symm) (some_ne m' hm' a _ hy)
    · exact absurd (by simpa using ea) (some_ne m hm a _ hx)
    · simpa using ea
  have e' := key m m' h h' e
  clear key e
  induction m generalizing m' with
  | nil =>
    cases m' with
    | nil => rfl
    | cons c t => have := e' c.1; simp [find_cons] at this
  | cons c t ih =>
    cases m' with
    | nil => have := e' c.1; simp [find_cons] at this
    | cons d u =>
      have hc : ∀ x ∈ t, c.1 < x.1 := by simpa using (List.pairwise_cons.1 h.1).1
      have hd : ∀ x ∈ u, d.1 < x.1 := by simpa using (List.pairwise_cons.1 h'.1).1
      have hcd : c.1 = d.1 := by
        rcases Nat.lt_trichotomy c.1 d.1 with hl | he | hl
        · have := e' c.1
          rw [find_cons, if_pos rfl, find_eq_none_of_lt (d :: u) c.1 (by
            intro x hx
            rcases List.mem_cons.1 hx with rfl | hx
            · exact hl
            · exact hl.trans (hd x hx))] at this
          cases this
        · exact he
        · have := e' d.1
          rw [find_cons d, if_pos rfl, find_eq_none_of_lt (c :: t) d.1 (by
            intro x hx
            rcases List.mem_cons.1 hx with rfl | hx
            · exact hl
            · exact hl.trans (hc x hx))] at this
          cases this
      have h2 : c.2 = d.2 := by
        have := e' c.1
        rw [find_cons, if_pos rfl, find_cons, if_pos hcd.symm] at this
        exact Option.some.inj this
      have htu : t = u := by
        refine ih u ⟨(List.pairwise_cons.1 h.1).2, fun x hx => h.2 x (by simp [hx])⟩
          ⟨(List.pairwise_cons.1 h'.1).2, fun x hx => h'.2 x (by simp [hx])⟩ fun a => ?_
        by_cases ha : c.1 = a
        · rw [find_eq_none_of_lt t a (ha ▸ hc), find_eq_none_of_lt u a (ha ▸ hcd ▸ hd)]
        · have := e' a
          rwa [find_cons, if_neg ha, find_cons, if_neg (hcd ▸ ha)] at this
      rw [htu, Prod.ext hcd h2]

end Sys2Proof.Machine.Memory
end

