-- ==== Sys2Proof/Laws/State.lean ====
section
/-! SUPPORT. One lemma per field per update of the state, so that no proof unfolds a record update. -/

namespace Sys2Proof.Machine.State

@[simp] theorem loadFrame_cfg (s : State) (buf : List Byte) : (s.loadFrame buf).cfg = s.cfg := rfl
@[simp] theorem loadFrame_crc (s : State) (buf : List Byte) : (s.loadFrame buf).crc = s.crc := rfl
@[simp] theorem loadFrame_fb (s : State) (buf : List Byte) : (s.loadFrame buf).fb = Memory.ofBytes 0 buf := rfl
@[simp] theorem loadFrame_flen (s : State) (buf : List Byte) : (s.loadFrame buf).flen = buf.length := rfl
@[simp] theorem loadFrame_recValid (s : State) (buf : List Byte) : (s.loadFrame buf).recValid = s.recValid := rfl
@[simp] theorem loadFrame_record (s : State) (buf : List Byte) : (s.loadFrame buf).record = s.record := rfl
@[simp] theorem loadFrame_rb (s : State) (buf : List Byte) : (s.loadFrame buf).rb = s.rb := rfl
@[simp] theorem loadFrame_rlen (s : State) (buf : List Byte) : (s.loadFrame buf).rlen = s.rlen := rfl
@[simp] theorem loadFrame_pending (s : State) (buf : List Byte) : (s.loadFrame buf).pending = s.pending := rfl
@[simp] theorem loadFrame_observed (s : State) (buf : List Byte) : (s.loadFrame buf).observed = s.observed := rfl

@[simp] theorem setRecord_cfg (s : State) (r : Record) : (s.setRecord r).cfg = s.cfg := rfl
@[simp] theorem setRecord_crc (s : State) (r : Record) : (s.setRecord r).crc = s.crc := rfl
@[simp] theorem setRecord_fb (s : State) (r : Record) : (s.setRecord r).fb = s.fb := rfl
@[simp] theorem setRecord_flen (s : State) (r : Record) : (s.setRecord r).flen = s.flen := rfl
@[simp] theorem setRecord_recValid (s : State) (r : Record) : (s.setRecord r).recValid = true := rfl
@[simp] theorem setRecord_record (s : State) (r : Record) : (s.setRecord r).record = r := rfl
@[simp] theorem setRecord_rb (s : State) (r : Record) : (s.setRecord r).rb = s.rb := rfl
@[simp] theorem setRecord_rlen (s : State) (r : Record) : (s.setRecord r).rlen = s.rlen := rfl
@[simp] theorem setRecord_pending (s : State) (r : Record) : (s.setRecord r).pending = s.pending := rfl
@[simp] theorem setRecord_observed (s : State) (r : Record) : (s.setRecord r).observed = s.observed := rfl

@[simp] theorem setResponse_cfg (s : State) (p : RespBuf) : (s.setResponse p).cfg = s.cfg := rfl
@[simp] theorem setResponse_crc (s : State) (p : RespBuf) : (s.setResponse p).crc = s.crc := rfl
@[simp] theorem setResponse_fb (s : State) (p : RespBuf) : (s.setResponse p).fb = s.fb := rfl
@[simp] theorem setResponse_flen (s : State) (p : RespBuf) : (s.setResponse p).flen = s.flen := rfl
@[simp] theorem setResponse_recValid (s : State) (p : RespBuf) : (s.setResponse p).recValid = s.recValid := rfl
@[simp] theorem setResponse_record (s : State) (p : RespBuf) : (s.setResponse p).record = s.record := rfl
@[simp] theorem setResponse_rb (s : State) (p : RespBuf) : (s.setResponse p).rb = p.rb := rfl
@[simp] theorem setResponse_rlen (s : State) (p : RespBuf) : (s.setResponse p).rlen = p.rlen := rfl
@[simp] theorem setResponse_pending (s : State) (p : RespBuf) : (s.setResponse p).pending = s.pending := rfl
@[simp] theorem setResponse_observed (s : State) (p : RespBuf) : (s.setResponse p).observed = s.observed := rfl

@[simp] theorem setCrc_cfg (s : State) (v : CrcWord) : (s.setCrc v).cfg = s.cfg := rfl
@[simp] theorem setCrc_crc (s : State) (v : CrcWord) : (s.setCrc v).crc = v := rfl
@[simp] theorem setCrc_fb (s : State) (v : CrcWord) : (s.setCrc v).fb = s.fb := rfl
@[simp] theorem setCrc_flen (s : State) (v : CrcWord) : (s.setCrc v).flen = s.flen := rfl
@[simp] theorem setCrc_recValid (s : State) (v : CrcWord) : (s.setCrc v).recValid = s.recValid := rfl
@[simp] theorem setCrc_record (s : State) (v : CrcWord) : (s.setCrc v).record = s.record := rfl
@[simp] theorem setCrc_rb (s : State) (v : CrcWord) : (s.setCrc v).rb = s.rb := rfl
@[simp] theorem setCrc_rlen (s : State) (v : CrcWord) : (s.setCrc v).rlen = s.rlen := rfl
@[simp] theorem setCrc_pending (s : State) (v : CrcWord) : (s.setCrc v).pending = s.pending := rfl
@[simp] theorem setCrc_observed (s : State) (v : CrcWord) : (s.setCrc v).observed = s.observed ++ [.crcQ v] := rfl

@[simp] theorem emit_cfg (s : State) (o : Observation) : (s.emit o).cfg = s.cfg := rfl
@[simp] theorem emit_crc (s : State) (o : Observation) : (s.emit o).crc = s.crc := rfl
@[simp] theorem emit_fb (s : State) (o : Observation) : (s.emit o).fb = s.fb := rfl
@[simp] theorem emit_flen (s : State) (o : Observation) : (s.emit o).flen = s.flen := rfl
@[simp] theorem emit_recValid (s : State) (o : Observation) : (s.emit o).recValid = s.recValid := rfl
@[simp] theorem emit_record (s : State) (o : Observation) : (s.emit o).record = s.record := rfl
@[simp] theorem emit_rb (s : State) (o : Observation) : (s.emit o).rb = s.rb := rfl
@[simp] theorem emit_rlen (s : State) (o : Observation) : (s.emit o).rlen = s.rlen := rfl
@[simp] theorem emit_pending (s : State) (o : Observation) : (s.emit o).pending = s.pending := rfl
@[simp] theorem emit_observed (s : State) (o : Observation) : (s.emit o).observed = s.observed ++ [o] := rfl

@[simp] theorem resetOf_cfg (c : Config) (p : List PortEvent) (o : List Observation) :
    (resetOf c p o).cfg = c := rfl
@[simp] theorem resetOf_crc (c : Config) (p : List PortEvent) (o : List Observation) :
    (resetOf c p o).crc = 0 := rfl
@[simp] theorem resetOf_fb (c : Config) (p : List PortEvent) (o : List Observation) :
    (resetOf c p o).fb = [] := rfl
@[simp] theorem resetOf_flen (c : Config) (p : List PortEvent) (o : List Observation) :
    (resetOf c p o).flen = 0 := rfl
@[simp] theorem resetOf_recValid (c : Config) (p : List PortEvent) (o : List Observation) :
    (resetOf c p o).recValid = false := rfl
@[simp] theorem resetOf_record (c : Config) (p : List PortEvent) (o : List Observation) :
    (resetOf c p o).record = Record.blank 0 := rfl
@[simp] theorem resetOf_rb (c : Config) (p : List PortEvent) (o : List Observation) :
    (resetOf c p o).rb = [] := rfl
@[simp] theorem resetOf_rlen (c : Config) (p : List PortEvent) (o : List Observation) :
    (resetOf c p o).rlen = 0 := rfl
@[simp] theorem resetOf_pending (c : Config) (p : List PortEvent) (o : List Observation) :
    (resetOf c p o).pending = p := rfl
@[simp] theorem resetOf_observed (c : Config) (p : List PortEvent) (o : List Observation) :
    (resetOf c p o).observed = o := rfl

@[simp] theorem sendResponse_cfg (s : State) : s.sendResponse.cfg = s.cfg := by
  unfold sendResponse; split <;> rfl
@[simp] theorem sendResponse_crc (s : State) : s.sendResponse.crc = s.crc := by
  unfold sendResponse; split <;> rfl
@[simp] theorem sendResponse_fb (s : State) : s.sendResponse.fb = s.fb := by
  unfold sendResponse; split <;> rfl
@[simp] theorem sendResponse_flen (s : State) : s.sendResponse.flen = s.flen := by
  unfold sendResponse; split <;> rfl
@[simp] theorem sendResponse_recValid (s : State) : s.sendResponse.recValid = s.recValid := by
  unfold sendResponse; split <;> rfl
@[simp] theorem sendResponse_record (s : State) : s.sendResponse.record = s.record := by
  unfold sendResponse; split <;> rfl
@[simp] theorem sendResponse_rb (s : State) : s.sendResponse.rb = s.rb := by
  unfold sendResponse; split <;> rfl
@[simp] theorem sendResponse_rlen (s : State) : s.sendResponse.rlen = s.rlen := by
  unfold sendResponse; split <;> rfl
@[simp] theorem sendResponse_pending (s : State) : s.sendResponse.pending = s.pending := by
  unfold sendResponse; split <;> rfl

theorem sendResponse_observed (s : State) :
    s.sendResponse.observed =
      s.observed ++ if s.rlen = 0 then [] else [.response (rbBytes s.rb s.rlen.toNat)] := by
  unfold sendResponse; split <;> simp

end Sys2Proof.Machine.State
end

