-- ==== Sys2Proof/Laws/Ops.lean ====
section
/-! SUPPORT. The shared operations on the response buffer and on the registers, each by what it leaves behind. -/

namespace Sys2Proof.Machine

/-! ### The response buffer -/

@[simp] theorem rbCell_nil (a : Nat) : rbCell [] a = 0x00 := rfl

/-- One cell after `MemWrite(off, 1, v)`. -/
@[simp] theorem rbCell_memWrite1 (rb : Memory) (off a : Nat) (v : Byte) :
    rbCell (memWrite1 rb off v) a = if a = off then v else rbCell rb a := by
  unfold rbCell memWrite1
  rw [Memory.read_write]
  split <;> rfl

theorem read_rb (rb : Memory) (a : Nat) : rb.read .rb a = some (rbCell rb a) := by
  unfold rbCell Memory.read
  cases rb.find a <;> rfl

theorem State.rbRead_of_lt (s : State) {a : Nat} (h : a < 10) : s.rbRead a = some (rbCell s.rb a) := by
  rw [State.rbRead, if_pos h, read_rb]

@[simp] theorem rbBytes_length (rb : Memory) (n : Nat) : (rbBytes rb n).length = n := by simp [rbBytes]

theorem wf_memWrite1 (rb : Memory) (off : Nat) (v : Byte) (h : rb.wf .rb) : (memWrite1 rb off v).wf .rb :=
  Memory.wf_write .rb rb off v h

theorem offsets_memWrite1 (rb : Memory) (off : Nat) (v : Byte) (ho : off < 10) (h : ∀ c ∈ rb, c.1 < 10) :
    ∀ c ∈ memWrite1 rb off v, c.1 < 10 :=
  Memory.offsets_write .rb rb off 10 v ho h

theorem wf_nil (sp : Space) : Memory.wf sp [] := ⟨List.Pairwise.nil, fun _ h => by cases h⟩

/-! ### The frame buffer -/

theorem State.fbRead_of_load (s : State) (buf : List Byte) (h : s.fb = Memory.ofBytes 0 buf)
    (hl : buf.length ≤ s.cfg.maxLen) (a : Nat) : s.fbRead a = buf[a]? := by
  unfold State.fbRead
  split
  · rw [h, Memory.read_load]
  · rw [List.getElem?_eq_none (by omega)]

/-- The message of the registers after a load. -/
theorem State.message_of_load (s : State) (buf : List Byte) (h : s.fb = Memory.ofBytes 0 buf)
    (hf : s.flen = buf.length) : s.message = some (messageOf buf s.record s.record.payload) := by
  rw [State.message, h, hf, Memory.bytes_load]
  rfl

/-! ### The outcome of a meaning -/

@[simp] theorem toOutcome_ok (s : State) : toOutcome (.ok s) = .next s := rfl

@[simp] theorem toOutcome_error (r : Refusal) : toOutcome (.error r) = .refused r := rfl

theorem toOutcome_eq_next {x : Except Refusal State} {t : State} : toOutcome x = .next t ↔ x = .ok t := by
  cases x <;> simp [toOutcome]

/-! ### The payload of the record (10_state R14), and CRC.RANGE -/

theorem Record.payload_of_login {r : Record} (h : r.pkind = .login) : r.payload = .login r.imei := by
  rw [Record.payload, h]

theorem Record.payload_of_gps {r : Record} (h : r.pkind = .gps) : r.payload = .gps r.gps := by
  rw [Record.payload, h]

theorem Record.payload_of_none {r : Record} (h : r.pkind = .none) : r.payload = .none := by
  rw [Record.payload, h]

theorem crcRangeEvents_of_le {bytes : List Byte} {s e : Nat} (h : s ≤ e) (h' : e ≤ bytes.length) :
    crcRangeEvents bytes s e = some (.crcClr :: (slice bytes s e).map .crcUpd) := if_pos ⟨h, h'⟩

end Sys2Proof.Machine
end

