-- ==== Sys2Proof/Laws/Operands.lean ====
section
/-! SUPPORT. The reads of a loaded frame buffer. -/

namespace Sys2Proof.Machine

theorem fbCell_load (bs : List Byte) (a : Nat) (h : a < bs.length) :
    fbCell (Memory.ofBytes 0 bs) a = .ok bs[a] := by
  simp [fbCell, List.getElem?_eq_getElem h]

theorem inBounds_ok {flen off n : Nat} (h : off + n ≤ flen) : inBounds flen off n = .ok () :=
  if_neg (by omega)

theorem inBounds_error {flen off n : Nat} (h : flen < off + n) :
    inBounds flen off n = .error (.structuralTooShort off n) :=
  if_pos h

theorem memRead1_load (bs : List Byte) (a : Nat) (h : a < bs.length) :
    memRead1 (Memory.ofBytes 0 bs) bs.length a = .ok bs[a] := by
  unfold memRead1
  rw [inBounds_ok h, ← fbCell_load bs a h]
  rfl

theorem memRead2_load (bs : List Byte) (a : Nat) (h : a + 1 < bs.length) :
    memRead2 (Memory.ofBytes 0 bs) bs.length a = .ok (bs[a] ++ bs[a + 1]) := by
  unfold memRead2
  rw [inBounds_ok (by omega), fbCell_load bs a (by omega), fbCell_load bs (a + 1) h]
  rfl

theorem memRead4_load (bs : List Byte) (a : Nat) (h : a + 3 < bs.length) :
    memRead4 (Memory.ofBytes 0 bs) bs.length a = .ok (bs[a] ++ bs[a + 1] ++ bs[a + 2] ++ bs[a + 3]) := by
  unfold memRead4
  rw [inBounds_ok (by omega), fbCell_load bs a (by omega), fbCell_load bs (a + 1) (by omega),
    fbCell_load bs (a + 2) (by omega), fbCell_load bs (a + 3) h]
  rfl

theorem memRead1_short (fb : Memory) {flen a : Nat} (h : flen < a + 1) :
    memRead1 fb flen a = .error (.structuralTooShort a 1) := by
  unfold memRead1; rw [inBounds_error h]; rfl

theorem memRead2_short (fb : Memory) {flen a : Nat} (h : flen < a + 2) :
    memRead2 fb flen a = .error (.structuralTooShort a 2) := by
  unfold memRead2; rw [inBounds_error h]; rfl

theorem memRead4_short (fb : Memory) {flen a : Nat} (h : flen < a + 4) :
    memRead4 fb flen a = .error (.structuralTooShort a 4) := by
  unfold memRead4; rw [inBounds_error h]; rfl

theorem tailSerial_load (bs : List Byte) (h : 6 ≤ bs.length) :
    tailSerial (Memory.ofBytes 0 bs) bs.length =
      .ok (some (bs[bs.length - 6], bs[bs.length - 5])) := by
  unfold tailSerial
  rw [if_neg (by omega), fbCell_load bs _ (by omega), fbCell_load bs _ (by omega)]
  rfl

theorem tailSerial_short (fb : Memory) {flen : Nat} (h : flen < 6) : tailSerial fb flen = .ok none := if_pos h

end Sys2Proof.Machine
end

