-- ==== Sys2Proof/Laws/FrameCodec.lean ====
section
/-! SUPPORT. The extractions on a loaded frame buffer: what they give when the delivery is long enough, and that they
raise StructuralTooShort when it is not. -/

namespace Sys2Proof.Machine

/-- The packed-BCD value of the eight bytes at offsets 4 to 11. -/
def imeiField (bs : List Byte) : BitVec 64 :=
  bs.getD 4 0 ++ bs.getD 5 0 ++ bs.getD 6 0 ++ bs.getD 7 0 ++ bs.getD 8 0 ++ bs.getD 9 0 ++ bs.getD 10 0 ++
    bs.getD 11 0

/-- The Gps fields at offsets 4 to 20 (30_encoding R55). -/
def gpsFields (bs : List Byte) : GpsRegs :=
  { year := gpsYear (bs.getD 4 0), month := bs.getD 5 0, day := bs.getD 6 0, hour := bs.getD 7 0,
    minute := bs.getD 8 0, second := bs.getD 9 0,
    lat := bs.getD 10 0 ++ bs.getD 11 0 ++ bs.getD 12 0 ++ bs.getD 13 0,
    lng := bs.getD 14 0 ++ bs.getD 15 0 ++ bs.getD 16 0 ++ bs.getD 17 0,
    speed := bs.getD 18 0, course := bs.getD 19 0 ++ bs.getD 20 0 }

theorem getD_eq_getElem (bs : List Byte) (i : Nat) (h : i < bs.length) : bs.getD i 0 = bs[i] := by
  simp [List.getD_eq_getElem?_getD, List.getElem?_eq_getElem h]

theorem extractLogin_load (bs : List Byte) (h : 12 ≤ bs.length) :
    extractLogin (Memory.ofBytes 0 bs) bs.length = .ok (imeiOf (imeiField bs)) := by
  unfold extractLogin imeiField
  simp only [getD_eq_getElem bs _ (show 4 < bs.length by omega), getD_eq_getElem bs _ (show 5 < bs.length by omega),
    getD_eq_getElem bs _ (show 6 < bs.length by omega), getD_eq_getElem bs _ (show 7 < bs.length by omega),
    getD_eq_getElem bs _ (show 8 < bs.length by omega), getD_eq_getElem bs _ (show 9 < bs.length by omega),
    getD_eq_getElem bs _ (show 10 < bs.length by omega), getD_eq_getElem bs _ (show 11 < bs.length by omega)]
  rw [memRead1_load bs 4 (by omega), memRead1_load bs 5 (by omega), memRead1_load bs 6 (by omega),
    memRead1_load bs 7 (by omega), memRead1_load bs 8 (by omega), memRead1_load bs 9 (by omega),
    memRead1_load bs 10 (by omega), memRead1_load bs 11 (by omega)]
  rfl

theorem extractGps_load (bs : List Byte) (h : 21 ≤ bs.length) :
    extractGps (Memory.ofBytes 0 bs) bs.length = .ok (gpsFields bs) := by
  unfold extractGps gpsFields
  simp only [getD_eq_getElem bs _ (show 4 < bs.length by omega), getD_eq_getElem bs _ (show 5 < bs.length by omega),
    getD_eq_getElem bs _ (show 6 < bs.length by omega), getD_eq_getElem bs _ (show 7 < bs.length by omega),
    getD_eq_getElem bs _ (show 8 < bs.length by omega), getD_eq_getElem bs _ (show 9 < bs.length by omega),
    getD_eq_getElem bs _ (show 10 < bs.length by omega), getD_eq_getElem bs _ (show 11 < bs.length by omega),
    getD_eq_getElem bs _ (show 12 < bs.length by omega), getD_eq_getElem bs _ (show 13 < bs.length by omega),
    getD_eq_getElem bs _ (show 14 < bs.length by omega), getD_eq_getElem bs _ (show 15 < bs.length by omega),
    getD_eq_getElem bs _ (show 16 < bs.length by omega), getD_eq_getElem bs _ (show 17 < bs.length by omega),
    getD_eq_getElem bs _ (show 18 < bs.length by omega), getD_eq_getElem bs _ (show 19 < bs.length by omega),
    getD_eq_getElem bs _ (show 20 < bs.length by omega)]
  rw [memRead1_load bs 4 (by omega), memRead1_load bs 5 (by omega), memRead1_load bs 6 (by omega),
    memRead1_load bs 7 (by omega), memRead1_load bs 8 (by omega), memRead1_load bs 9 (by omega),
    memRead4_load bs 10 (by omega), memRead4_load bs 14 (by omega), memRead1_load bs 18 (by omega),
    memRead2_load bs 19 (by omega)]
  rfl

/-- The extraction raised StructuralTooShort. -/
def Raises {α : Type} (x : Except ReadFail α) : Prop := ∃ off n, x = .error (.structuralTooShort off n)

/-- After a one-byte read, an extraction raises if it raises whatever the byte is. -/
theorem Raises.read1 {β : Type} (bs : List Byte) (a : Nat) (f : Byte → Except ReadFail β) (h : ∀ b, Raises (f b)) :
    Raises (memRead1 (Memory.ofBytes 0 bs) bs.length a >>= f) := by
  by_cases ha : a < bs.length
  · rw [memRead1_load bs a ha]; exact h _
  · rw [memRead1_short _ (by omega)]; exact ⟨_, _, rfl⟩

theorem Raises.read4 {β : Type} (bs : List Byte) (a : Nat) (f : BitVec 32 → Except ReadFail β)
    (h : ∀ v, Raises (f v)) : Raises (memRead4 (Memory.ofBytes 0 bs) bs.length a >>= f) := by
  by_cases ha : a + 3 < bs.length
  · rw [memRead4_load bs a ha]; exact h _
  · rw [memRead4_short _ (by omega)]; exact ⟨_, _, rfl⟩

theorem extractLogin_short (bs : List Byte) (h : bs.length < 12) :
    Raises (extractLogin (Memory.ofBytes 0 bs) bs.length) := by
  unfold extractLogin
  iterate 7 refine Raises.read1 bs _ _ fun _ => ?_
  rw [memRead1_short _ (by omega)]
  exact ⟨_, _, rfl⟩

theorem extractGps_short (bs : List Byte) (h : bs.length < 21) :
    Raises (extractGps (Memory.ofBytes 0 bs) bs.length) := by
  unfold extractGps
  iterate 6 refine Raises.read1 bs _ _ fun _ => ?_
  iterate 2 refine Raises.read4 bs _ _ fun _ => ?_
  refine Raises.read1 bs _ _ fun _ => ?_
  rw [memRead2_short _ (by omega)]
  exact ⟨_, _, rfl⟩

/-- A caught StructuralTooShort is the recording of the decode error. -/
theorem settle_raised {α : Type} (r : Record) (put : α → Record) (x : Except ReadFail α)
    (h : Raises x) : settle r put x = .ok r.recordDecodeError := by
  obtain ⟨o, n, rfl⟩ := h
  rfl

/-- The record of a loaded Login delivery. -/
theorem loginRecord_load (now : Nat) (bs : List Byte) :
    loginRecord now (Memory.ofBytes 0 bs) bs.length =
      .ok (if 12 ≤ bs.length then
          { plainRecord .login now with pkind := .login, imei := imeiOf (imeiField bs) }
        else (plainRecord .login now).recordDecodeError) := by
  unfold loginRecord
  by_cases h : 12 ≤ bs.length
  · rw [if_pos h, extractLogin_load bs h]; rfl
  · rw [if_neg h, settle_raised _ _ _ (extractLogin_short bs (by omega))]

/-- The record of a loaded Gps delivery. -/
theorem gpsRecord_load (now : Nat) (bs : List Byte) :
    gpsRecord now (Memory.ofBytes 0 bs) bs.length =
      .ok (if 21 ≤ bs.length then { plainRecord .gps now with pkind := .gps, gps := gpsFields bs }
        else (plainRecord .gps now).recordDecodeError) := by
  unfold gpsRecord
  by_cases h : 21 ≤ bs.length
  · rw [if_pos h, extractGps_load bs h]; rfl
  · rw [if_neg h, settle_raised _ _ _ (extractGps_short bs (by omega))]

end Sys2Proof.Machine
end

