-- ==== Sys2Proof/Laws/Response.lean ====
section
/-! SUPPORT. What the Response Policy leaves in the response registers. -/

namespace Sys2Proof.Machine

/-- The response registers hold these bytes, and 0x00 beyond them; RB is in canonical form. -/
structure RespBuf.Holds (p : RespBuf) (resp : List Byte) : Prop where
  rlen : p.rlen.toNat = resp.length
  cells : ∀ i, i < 10 → rbCell p.rb i = resp.getD i 0x00
  sent : rbBytes p.rb p.rlen.toNat = resp
  wf : p.rb.wf .rb
  offsets : ∀ c ∈ p.rb, c.1 < 10

theorem noResponse_holds : noResponse.Holds [] :=
  ⟨rfl, fun i _ => by simp [noResponse], rfl, wf_nil .rb, fun _ h => by cases h⟩

theorem ackHeartbeat_holds : ackHeartbeat.Holds hbAck := by
  refine ⟨rfl, by decide, by decide, by decide, by decide⟩

theorem ackLogin_holds (h l : Byte) : (ackLogin h l).Holds (ackLoginBytes h l) := by
  have cell : ∀ i, i < 10 → rbCell (ackLogin h l).rb i = (ackLoginBytes h l).getD i 0x00 := by
    intro i hi
    have hi' : i = 0 ∨ i = 1 ∨ i = 2 ∨ i = 3 ∨ i = 4 ∨ i = 5 ∨ i = 6 ∨ i = 7 ∨ i = 8 ∨ i = 9 := by omega
    rcases hi' with rfl | rfl | rfl | rfl | rfl | rfl | rfl | rfl | rfl | rfl <;>
      simp [ackLogin, memWrite2, ackLoginBytes]
  refine ⟨rfl, cell, ?_, ?_, ?_⟩
  · refine List.ext_getElem (by simp [ackLoginBytes, ackLogin]) fun i h1 h2 => ?_
    have hi : i < 10 := by simpa [ackLogin] using h1
    rw [show (rbBytes (ackLogin h l).rb (ackLogin h l).rlen.toNat)[i] = rbCell (ackLogin h l).rb i by
      simp [rbBytes], cell i hi, List.getD_eq_getElem?_getD, List.getElem?_eq_getElem h2]
    rfl
  · simp only [ackLogin, memWrite2]
    iterate 10 apply wf_memWrite1
    exact wf_nil .rb
  · simp only [ackLogin, memWrite2]
    iterate 10 refine offsets_memWrite1 _ _ _ (by decide) ?_
    exact fun _ h => by cases h

/-- The response to a loaded Login delivery. -/
theorem respondLogin_load (bs : List Byte) :
    respondLogin (Memory.ofBytes 0 bs) bs.length =
      .ok (if 6 ≤ bs.length then ackLogin (bs.getD (bs.length - 6) 0) (bs.getD (bs.length - 5) 0)
        else noResponse) := by
  unfold respondLogin
  by_cases h : 6 ≤ bs.length
  · rw [if_pos h, tailSerial_load bs h]
    simp [List.getD_eq_getElem?_getD, List.getElem?_eq_getElem (show bs.length - 6 < bs.length by omega),
      List.getElem?_eq_getElem (show bs.length - 5 < bs.length by omega)]
  · rw [if_neg h, tailSerial_short _ (by omega)]

end Sys2Proof.Machine
end

