-- ==== Sys2Proof/Laws/Session.lean ====
section
/-! SUPPORT. Everything a delivery can do, said once. -/

namespace Sys2Proof.Machine

theorem checkDelivery_ok {c : Config} {len now : Nat} (h : deliveryFits c len now = true) :
    checkDelivery c len now = .ok () := by
  simp only [deliveryFits, Bool.and_eq_true, decide_eq_true_eq] at h
  rw [checkDelivery, if_neg (by omega), if_neg (by omega)]

theorem checkDelivery_error {c : Config} {len now : Nat} (h : deliveryFits c len now = false) :
    ∃ r, checkDelivery c len now = .error r := by
  unfold checkDelivery
  split
  · exact ⟨_, rfl⟩
  · split
    · exact ⟨_, rfl⟩
    · simp [deliveryFits] at h; omega

/-- The state after a delivery of `buf` that decodes to `r` and leaves the response registers `p`. -/
def afterDelivery (s : State) (buf : List Byte) (r : Record) (p : RespBuf) : State :=
  ((((s.loadFrame buf).setRecord r).emit (.record (messageOf buf r r.payload))).setResponse p).sendResponse

/-- A delivery that fits, by its two halves. -/
theorem delivery_eq {buf : List Byte} {now : Nat} {dec : Memory → Nat → Except Refusal Record}
    {resp : Record → Memory → Nat → Except Refusal RespBuf} {s : State}
    (fits : deliveryFits s.cfg buf.length now = true) {r : Record} {p : RespBuf}
    (hd : dec (Memory.ofBytes 0 buf) buf.length = .ok r)
    (hr : resp r (Memory.ofBytes 0 buf) buf.length = .ok p) :
    delivery buf now dec resp s = .ok (afterDelivery s buf r p) := by
  have hm : recordOut ((s.loadFrame buf).setRecord r) = .ok (messageOf buf r r.payload) := by
    rw [recordOut, State.message_of_load _ buf rfl rfl]
    rfl
  unfold delivery
  rw [checkDelivery_ok fits]
  simp only [State.loadFrame_fb, State.loadFrame_flen, State.setRecord_fb, State.setRecord_flen, State.emit_fb,
    State.emit_flen]
  show (dec (Memory.ofBytes 0 buf) buf.length >>= _) = _
  rw [hd]
  show (recordOut ((s.loadFrame buf).setRecord r) >>= _) = _
  rw [hm]
  show (resp r (Memory.ofBytes 0 buf) buf.length >>= _) = _
  rw [hr]
  rfl

/-- Everything a delivery can do: it fits the parameters, both halves succeed on the loaded buffer, and the next
state is `afterDelivery`. -/
theorem delivery_ok {buf : List Byte} {now : Nat} {dec : Memory → Nat → Except Refusal Record}
    {resp : Record → Memory → Nat → Except Refusal RespBuf} {s t : State} (h : delivery buf now dec resp s = .ok t) :
    deliveryFits s.cfg buf.length now = true ∧ ∃ r p, dec (Memory.ofBytes 0 buf) buf.length = .ok r ∧
      resp r (Memory.ofBytes 0 buf) buf.length = .ok p ∧ t = afterDelivery s buf r p := by
  cases fits : deliveryFits s.cfg buf.length now with
  | false =>
    obtain ⟨e, he⟩ := checkDelivery_error fits
    unfold delivery at h
    rw [he] at h
    cases h
  | true =>
    refine ⟨rfl, ?_⟩
    cases hd : dec (Memory.ofBytes 0 buf) buf.length with
    | error e =>
      unfold delivery at h
      rw [checkDelivery_ok fits] at h
      change (dec (Memory.ofBytes 0 buf) buf.length >>= _) = _ at h
      rw [hd] at h
      cases h
    | ok r =>
      cases hr : resp r (Memory.ofBytes 0 buf) buf.length with
      | error e =>
        have hm : recordOut ((s.loadFrame buf).setRecord r) = .ok (messageOf buf r r.payload) := by
          rw [recordOut, State.message_of_load _ buf rfl rfl]
          rfl
        unfold delivery at h
        rw [checkDelivery_ok fits] at h
        change (dec (Memory.ofBytes 0 buf) buf.length >>= _) = _ at h
        rw [hd] at h
        change (recordOut ((s.loadFrame buf).setRecord r) >>= _) = _ at h
        rw [hm] at h
        change (resp r (Memory.ofBytes 0 buf) buf.length >>= _) = _ at h
        rw [hr] at h
        cases h
      | ok p =>
        rw [delivery_eq fits hd hr] at h
        exact ⟨r, p, rfl, hr, (Except.ok.inj h).symm⟩

@[simp] theorem afterDelivery_cfg (s : State) (buf : List Byte) (r : Record) (p : RespBuf) :
    (afterDelivery s buf r p).cfg = s.cfg := by simp [afterDelivery]

@[simp] theorem afterDelivery_crc (s : State) (buf : List Byte) (r : Record) (p : RespBuf) :
    (afterDelivery s buf r p).crc = s.crc := by simp [afterDelivery]

@[simp] theorem afterDelivery_fb (s : State) (buf : List Byte) (r : Record) (p : RespBuf) :
    (afterDelivery s buf r p).fb = Memory.ofBytes 0 buf := by simp [afterDelivery]

@[simp] theorem afterDelivery_flen (s : State) (buf : List Byte) (r : Record) (p : RespBuf) :
    (afterDelivery s buf r p).flen = buf.length := by simp [afterDelivery]

@[simp] theorem afterDelivery_recValid (s : State) (buf : List Byte) (r : Record) (p : RespBuf) :
    (afterDelivery s buf r p).recValid = true := by simp [afterDelivery]

@[simp] theorem afterDelivery_record (s : State) (buf : List Byte) (r : Record) (p : RespBuf) :
    (afterDelivery s buf r p).record = r := by simp [afterDelivery]

@[simp] theorem afterDelivery_rb (s : State) (buf : List Byte) (r : Record) (p : RespBuf) :
    (afterDelivery s buf r p).rb = p.rb := by simp [afterDelivery]

@[simp] theorem afterDelivery_rlen (s : State) (buf : List Byte) (r : Record) (p : RespBuf) :
    (afterDelivery s buf r p).rlen = p.rlen := by simp [afterDelivery]

@[simp] theorem afterDelivery_pending (s : State) (buf : List Byte) (r : Record) (p : RespBuf) :
    (afterDelivery s buf r p).pending = s.pending := by simp [afterDelivery]

@[simp] theorem afterDelivery_observed (s : State) (buf : List Byte) (r : Record) (p : RespBuf) :
    (afterDelivery s buf r p).observed = s.observed ++ .record (messageOf buf r r.payload) ::
      (if p.rlen = 0 then [] else [.response (rbBytes p.rb p.rlen.toNat)]) := by
  rw [afterDelivery, State.sendResponse_observed]
  exact List.append_assoc s.observed [_] _

/-- The whole effect of a delivery whose response registers hold the bytes `resp`. -/
theorem delivered_afterDelivery {s : State} {buf resp : List Byte} {r : Record} {p : RespBuf} {now : Nat}
    (fits : deliveryFits s.cfg buf.length now = true) (hp : p.Holds resp) :
    Delivered s (afterDelivery s buf r p) buf r r.payload resp where
  flen := by simp
  fb := State.fbRead_of_load _ buf (by simp) (by
    simp only [deliveryFits, Bool.and_eq_true, decide_eq_true_eq] at fits
    simpa using fits.1)
  recValid := by simp
  record := by simp
  rlen := by simpa using hp.rlen
  rb := fun i hi => by rw [State.rbRead_of_lt _ hi, afterDelivery_rb, hp.cells i hi]
  observed := by
    have hz : p.rlen = 0 ↔ resp = [] := by
      rw [← List.length_eq_zero_iff, ← hp.rlen]
      exact ⟨fun h => by rw [h]; rfl, fun h => BitVec.eq_of_toNat_eq h⟩
    rw [afterDelivery_observed, hp.sent]
    simp only [hz]
  crc := by simp
  cfg := by simp
  pending := by simp

end Sys2Proof.Machine
end

