-- ==== Sys2Proof/Laws/Step.lean ====
section
/-! SUPPORT. One step and a run of steps. -/

namespace Sys2Proof.Machine

theorem step_nil {s : State} (h : s.pending = []) : step s = .next s := by unfold step; rw [h]

theorem step_cons {s : State} {e : PortEvent} {es : List PortEvent} (h : s.pending = e :: es) :
    step s = exec (decodeEvent e) { s with pending := es } := by
  unfold step; rw [h]

@[simp] theorem run_zero (s : State) : run 0 s = .next s := rfl

theorem run_succ {s t : State} (k : Nat) (h : step s = .next t) : run (k + 1) s = run k t := by
  rw [run, h]

/-- A step that is refused ends a run. -/
theorem run_refused {s : State} {r : Refusal} (k : Nat) (h : step s = .refused r) : run (k + 1) s = .refused r := by
  rw [run, h]

/-- `run` is the host's run of the machine. -/
theorem run_eq_core_run (k : Nat) (s : State) : run k s = Sys2Proof.core.run k s := by
  induction k generalizing s with
  | zero => rfl
  | succ k ih =>
    rw [run]
    cases h : step s with
    | next t =>
      have h' : Sys2Proof.core.step s = .next t := h
      simp only [Host.Core.run, h']
      exact ih t
    | refused r =>
      have h' : Sys2Proof.core.step s = .refused r := h
      simp only [Host.Core.run, h']
      rfl
    | fault f => exact nomatch f

/-- A delivery of four bytes or more has a header and a protocol number. -/
theorem frame_of_length {buf : List Byte} (h : 4 ≤ buf.length) :
    ∃ hdr t rest, buf = frameBytes hdr t rest := by
  match buf, h with
  | b0 :: b1 :: b2 :: t :: rest, _ => exact ⟨⟨b0, b1, b2⟩, t, rest, rfl⟩

@[simp] theorem frameBytes_length (hdr : Header) (t : Byte) (rest : List Byte) :
    (frameBytes hdr t rest).length = rest.length + 4 := rfl

@[simp] theorem frameBytes_getD_three (hdr : Header) (t : Byte) (rest : List Byte) :
    (frameBytes hdr t rest).getD 3 0 = t := rfl

end Sys2Proof.Machine
end

