-- ==== Sys2Proof/Tests/Slice0.lean ====
section
/-! SUPPORT. Tests whose expected values come from spec/95_test_vectors.md, the ill-formed terms that WellFormed
refuses, and a witness for the hypotheses of every statement. -/

namespace Sys2Proof.Tests

open Sys2Proof Sys2Proof.Machine

/-! ### Helpers -/

/-- The bytes of a frame written as one hexadecimal number. -/
def hex (n w : Nat) : List Byte := wordBytes n w

/-- The smallest admissible parameters, with the 0x22 extension. -/
def small : Config := { maxLen := 21, timeW := 1, ext22 := true }

/-- An instance whose `crc` holds the value the vectors leave there. -/
def used (c : Config) (crc : CrcWord) (pending : List PortEvent) : State :=
  { State.resetOf c pending [] with crc := crc }

/-- The next state of an instruction, if there is one. -/
def after (i : Instr) (s : State) : Option State :=
  match exec i s with
  | .next t => some t
  | .refused _ => none
  | .fault _ => none

/-- The response bytes that stand in RB. -/
def sent (t : State) : List Byte := rbBytes t.rb t.rlen.toNat

/-- The payloads of the records handed over. -/
def handedOver (t : State) : List Payload :=
  t.observed.filterMap fun o =>
    match o with
    | .record m => some m.payload
    | .response _ => none
    | .crcQ _ => none

/-- The Header of the short-frame variant. -/
def head (lengthByte : Byte) : Header := ⟨0x78, 0x78, lengthByte⟩

/-- The Gps payload of V-P13, offsets 4 to 20. -/
def gpsBytes : List Byte := hex 17 0x180B0A0C22380269FB200C3B1A803C154C

/-- The `gps_*` registers V-P13 lists. -/
def gpsExpected : GpsRegs :=
  { year := 2024, month := 11, day := 10, hour := 12, minute := 34, second := 56, lat := 40500000, lng := 205200000,
    speed := 60, course := 0x154C }

/-! ### What WellFormed refuses -/

theorem test_wf_refuses_short_of_four_bytes : (Instr.short [0x78, 0x78, 0x05, 0x01] 0).wf = false := by decide

theorem test_wf_accepts_short_of_three_bytes : (Instr.short [0x78, 0x78, 0x05] 0).wf = true := by decide

theorem test_wf_refuses_unknown_with_a_row_of_its_own :
    ([0x01, 0x12, 0x13, 0x16, 0x26, 0x22] : List Byte).map (fun p => (Instr.unknown (head 5) p [] 0).wf) =
      [false, false, false, false, false, false] := by decide

theorem test_fits_refuses_a_byte_too_many :
    (Instr.login (head 5) (hex 18 0) 0).fits small = false ∧ (Instr.login (head 5) (hex 17 0) 0).fits small = true := by
  decide

theorem test_fits_refuses_a_wide_sample :
    (PortEvent.deliver [] 2).fits small = false ∧ (PortEvent.deliver [] 1).fits small = true := by decide

/-! ### Decoding: words written out bit by bit from the encodings (30_encoding R50, R52, R60, R61) -/

theorem test_decode_login : decodeTableWord 32 0b01111000011110000000110100000001 =
    some (.login ⟨0x78, 0x78, 0x0D⟩ [] 0) := by decide
theorem test_decode_gps : decodeTableWord 32 0b01111000011110000001011000010010 =
    some (.gps ⟨0x78, 0x78, 0x16⟩ [] 0) := by decide
theorem test_decode_status : decodeTableWord 32 0b01111000011110000000101000010011 =
    some (.status ⟨0x78, 0x78, 0x0A⟩ [] 0) := by decide
theorem test_decode_alarm : decodeTableWord 32 0b01111000011110000000010100010110 =
    some (.alarm ⟨0x78, 0x78, 0x05⟩ [] 0) := by decide
theorem test_decode_heartbeat : decodeTableWord 32 0b01111000011110000000010100100110 =
    some (.heartbeat ⟨0x78, 0x78, 0x05⟩ [] 0) := by decide
theorem test_decode_gps_ext22 : decodeTableWord 32 0b01111000011110000001011000100010 =
    some (.gpsExt22 ⟨0x78, 0x78, 0x16⟩ [] 0) := by decide
theorem test_decode_unknown : decodeTableWord 32 0b01111000011110000000010101000101 =
    some (.unknown ⟨0x78, 0x78, 0x05⟩ 0x45 [] 0) := by decide
theorem test_decode_short : decodeTableWord 24 0b011110000111100000000101 =
    some (.short [0x78, 0x78, 0x05] 0) := by decide
theorem test_decode_crc_upd : decodeTableWord 8 0b10010001 = some (.crcUpd 0x91) := by decide

/-- With serial 00 07 and the checksum FB92 of V-C16. -/
theorem test_decode_ack_login :
    decodeTableWord 80
      0b01111000011110000000010100000001000000000000011111111011100100100000110100001010 =
      some (.ackLogin 0x00 0x07) := by decide +kernel

theorem test_decode_ack_heartbeat :
    decodeTableWord 72 0b011110000111100000000101000100110000000000000001100111010000110100001010 =
      some .ackHeartbeat := by decide +kernel

theorem test_decode_rejects_wrong_checksum :
    decodeAck (hex 10 0x787805010007FB930D0A) = .error .wrongChecksum := by decide +kernel

/-- Ten bytes that "repair" the Heartbeat literal are none (90_conflicts C1). -/
theorem test_decode_rejects_repaired_heartbeat :
    decodeAck (hex 10 0x787805130001B6570D0A) = .error .notAResponse := by decide +kernel

theorem test_decode_events :
    decode (.event .crcClr) = .ok .crcClr ∧ decode (.event .reset) = .ok .reset ∧
      decode (.event (.deliver [] 3)) = .ok (.short [] 3) := by decide

/-! ### The Checksum Engine (V-C9, V-C10, V-C12, V-C13, V-C15, V-C17) -/

theorem test_crc_round : [0x0000, 0x8000, 0xFFFF, 0x7FFF, 0xA000, 0x0001].map crcRound =
    [0x0000, 0x1021, 0xEFDF, 0xFFFE, 0x5021, 0x0002] := by decide +kernel

theorem test_crc_of_digits : crcOf (hex 9 0x313233343536373839) = 0x31C3 := by decide +kernel

theorem test_crc16_range :
    crc16 (hex 17 0x78780D010391608033600100018CDD0D0A) 2 13 = some 0x15A2 ∧
      crc16 (hex 17 0x78780D010391608033600100018CDD0D0A) 2 6 = some 0xC87D := by decide +kernel

theorem test_crc_upd : (after (.crcUpd 0x05) State.reset).map State.crc = some 0x50A5 := by decide +kernel

theorem test_crc_upd_without_clear :
    (after (.crcUpd 0x05) (used small 0x9B54 [])).map State.crc = some 0x3677 := by decide +kernel

theorem test_crc_clr : (after .crcClr (used small 0x50A5 [])).map State.crc = some 0x0000 := by decide

/-! ### The frame classes -/

/-- V-P4. -/
theorem test_short :
    (after (.short [0x78, 0x78, 0x05] 7) State.reset).map (fun t => (t.record, t.flen, t.rlen)) =
      some (Record.blank 7, 3, 0) := by decide +kernel

/-- V-P7. -/
theorem test_login :
    (after (.login (head 0x0D) (hex 14 0x0123456789012345002AD5F90D0A) 100) State.reset).map
      (fun t => (t.record.imei, t.record.decErr, sent t, handedOver t)) =
      some (⟨0x0123456789012345, 1, false⟩, false, hex 10 0x78780501002A0E5D0D0A,
        [.login ⟨0x0123456789012345, 1, false⟩]) := by decide +kernel

/-- V-P8: eleven bytes fail and are answered (V-R7). -/
theorem test_login_one_byte_short :
    (after (.login (head 0x05) (hex 7 0x01234567890123) 0) State.reset).map
      (fun t => (t.record.imei, t.record.decErr, sent t)) =
      some (.zero, true, hex 10 0x787805012345C0A10D0A) := by decide +kernel

/-- V-P14: 21 bytes, the fields of V-P13. -/
theorem test_gps :
    (after (.gps (head 0x16) gpsBytes 0) State.reset).map
      (fun t => (t.record.gps, t.record.pkind, t.rlen, handedOver t)) =
      some (gpsExpected, .gps, 0, [.gps gpsExpected]) := by decide +kernel

/-- V-P15: 20 bytes, nothing kept. -/
theorem test_gps_one_byte_short :
    (after (.gps (head 0x16) (gpsBytes.take 16) 0) State.reset).map
      (fun t => (t.record.gps, t.record.pkind, t.record.decErr, handedOver t)) =
      some (.zero, .none, true, [.none]) := by decide +kernel

/-- V-P18. -/
theorem test_status :
    (after (.status (head 0x0A) (hex 11 0x4506040002000494110D0A) 0) State.reset).map
      (fun t => (t.record, t.flen, t.rlen)) = some (plainRecord .status 0, 15, 0) := by decide +kernel

/-- V-P19. -/
theorem test_alarm :
    (after (.alarm (head 0x05) (hex 6 0x00051D230D0A) 0) State.reset).map
      (fun t => (t.record, t.flen, t.rlen)) = some (plainRecord .alarm 0, 10, 0) := by decide +kernel

/-- V-P20: the serial 00 07 is not echoed. -/
theorem test_heartbeat :
    (after (.heartbeat (head 0x05) (hex 6 0x0007F8C40D0A) 0) State.reset).map
      (fun t => (t.record.mtype, sent t)) = some (.heartbeat, hex 9 0x7878051300019D0D0A) := by decide +kernel

/-- V-P21a, with `EXT22 = 0`. -/
theorem test_gps_ext22_baseline :
    (after (.gpsExt22 (head 0x16) (gpsBytes ++ hex 6 0x000604F90D0A) 1) State.reset).map (fun t => t.record) =
      some (plainRecord .unknown 1) := by decide +kernel

/-- V-P21b, with `EXT22 = 1` (without the six bytes that are not examined). -/
theorem test_gps_ext22_extended :
    (after (.gpsExt22 (head 0x16) gpsBytes 1) (used small 0 [])).map (fun t => (t.record.gps, t.rlen)) =
      some (gpsExpected, 0) := by decide +kernel

/-- V-P25: the second half of a split Login frame. -/
theorem test_unknown :
    (after (.unknown ⟨0x89, 0x01, 0x23⟩ 0x45 (hex 6 0x002AD5F90D0A) 5) State.reset).map
      (fun t => (t.record, t.flen, t.rlen)) = some (plainRecord .unknown 5, 10, 0) := by decide +kernel

/-- V-R11a. -/
theorem test_ack_login :
    (after (.ackLogin 0xFF 0xFF) State.reset).map sent = some (hex 10 0x78780501FFFF967A0D0A) := by decide +kernel

/-- V-R13: after an acknowledgment of ten bytes RB[9] is rewritten to 0x00. -/
theorem test_ack_heartbeat :
    (after .ackHeartbeat (State.reset.setResponse (ackLogin 0x00 0x2A))).map
      (fun t => (sent t, rbCell t.rb 9)) = some (hex 9 0x7878051300019D0D0A, 0x00) := by decide +kernel

/-- V-P23: two frames in one delivery; the serial of the second is echoed. -/
theorem test_deliver_coalesced :
    (after (.deliver (hex 28 0x78780D010123456789012345002AD5F90D0A787805260007F8C40D0A) 0) State.reset).map
      (fun t => (t.record.mtype, t.flen, sent t)) = some (.login, 28, hex 10 0x787805010007FB920D0A) := by
  decide +kernel

/-- V-P16: the record goes out before the response. -/
theorem test_deliver_long_header :
    (after (.deliver (hex 8 0x79790001AABB0D0A) 0) State.reset).map State.observed =
      some [.record { messageType := .login, raw := hex 8 0x79790001AABB0D0A, length := 8, receivedAt := 0,
                      payload := .none, decErr := true, errCause := .structuralTooShort },
            .response (hex 10 0x7878050100019B540D0A)] := by decide +kernel

/-- V-H1. -/
theorem test_reset :
    (after .reset { used small 0x50A5 [] with recValid := true, flen := 1, fb := [(0, 0x78)], rlen := 9 }).map
      (fun t => (t.crc, t.recValid, t.flen, t.fb.length, t.rlen)) = some (0x0000, false, 0, 0, 0) := by decide

/-! ### Fields (V-P10, V-P12b, V-M2, V-M3, V-M5, the example of 41_frame_parser R87) -/

theorem test_imei_lz : (imeiLz 0, imeiLz 0xA0, imeiNondec 0xA0) = (16, 14, true) := by decide +kernel

theorem test_imei_string : (imeiOf 0x0391608033600100).string = "391608033600100" := by decide +kernel

theorem test_mem_read_bounds :
    memRead2 (Memory.ofBytes 0 (hex 20 0)) 20 19 = .error (.structuralTooShort 19 2) ∧
      memRead2 (Memory.ofBytes 0 (hex 21 0x154C)) 21 19 = .ok 0x154C := by decide +kernel

theorem test_tail_read :
    tailSerial (Memory.ofBytes 0 (hex 6 0x787805010009)) 6 = .ok (some (0x78, 0x78)) ∧
      tailSerial (Memory.ofBytes 0 (hex 5 0x7878050100)) 5 = .ok none := by decide +kernel

theorem test_hexlower : String.ofList (hexlower (hex 4 0x78780D01)) = "78780d01" := by decide +kernel

/-- S4. -/
theorem test_raw_hex :
    (messageOf (hex 17 0x78780D010391608033600100018CDD0D0A) (Record.blank 0) .none).rawHex =
      "78780d010391608033600100018cdd0d0a" := by decide +kernel

theorem test_degrees : degrees 0x0269FB20 = 22.5 := by
  have raw : (0x0269FB20 : BitVec 32).toNat = 40500000 := rfl
  norm_num [degrees, coordScale, raw]

/-! ### Witnesses: the hypotheses of each statement are met, at the ends of their ranges -/

/-- 21 bytes, all that `small` admits, and the largest sample of one bit. -/
theorem witness_admissible_delivery :
    (hex 21 0x12).length = small.maxLen ∧ 1 < 2 ^ small.timeW := by decide

theorem witness_ResetEventRestoresEveryRegister :
    (hex 21 0).length ≤ (used small 0x50A5 []).cfg.maxLen ∧ 1 < 2 ^ (used small 0x50A5 []).cfg.timeW := by decide

theorem witness_CrcRoundShiftsAndXorsPolynomial : 0 < 16 ∧ 15 < 16 := by decide

/-- An empty range at the end, the last byte, and ranges outside on each side. -/
theorem witness_CrcOfRangeGrowsByteByByte :
    1 ≤ ([0x05] : List Byte).length ∧ (0 ≤ 0 ∧ 0 < ([0x05] : List Byte).length) ∧
      ¬(1 ≤ 0 ∧ 0 ≤ ([0x05] : List Byte).length) ∧ ¬(0 ≤ 2 ∧ 2 ≤ ([0x05] : List Byte).length) := by decide

theorem witness_CrcIsLinearOverXor : ([0x01] : List Byte).length = ([0x80] : List Byte).length := by decide

/-- The whole sequence, an empty range at its end, and ranges outside on each side. -/
theorem witness_CrcRangeEventsComputeCrc16 :
    (crcRangeEvents [0x05, 0x01] 0 2 = some [.crcClr, .crcUpd 0x05, .crcUpd 0x01] ∧
      (used small 0x50A5 [.crcClr, .crcUpd 0x05, .crcUpd 0x01, .reset]).pending =
        [.crcClr, .crcUpd 0x05, .crcUpd 0x01] ++ [.reset]) ∧
    (crcRangeEvents [0x05, 0x01] 2 2 = some [.crcClr] ∧ (used small 0x50A5 [.crcClr]).pending = [.crcClr] ++ []) ∧
    (0 ≤ 2 ∧ 2 ≤ 2 ∧ 2 ≤ ([0x05, 0x01] : List Byte).length) ∧
    ¬(0 ≤ 3 ∧ 3 ≤ ([0x05, 0x01] : List Byte).length) ∧ ¬(2 ≤ 1 ∧ 1 ≤ ([0x05, 0x01] : List Byte).length) := by decide

/-- A session with every event, its delivery as long and as late as the parameters admit. -/
def session : State := used small 0x50A5 [.crcUpd 0x05, .deliver (hex 21 0x12) 1, .deliver [] 0, .reset, .crcClr]

theorem witness_CrcOfSessionIgnoresDeliveries : session.Admissible := by unfold State.Admissible; decide

theorem witness_AdmissibleSessionRunsToItsEnd : session.Admissible := witness_CrcOfSessionIgnoresDeliveries

theorem witness_SessionHandsOverOneRecordPerDelivery : session.Admissible := witness_CrcOfSessionIgnoresDeliveries

theorem witness_ShortDeliveryIsUnknownAndUnanswered :
    ([] : List Byte).length < 4 ∧ (hex 3 0x787805).length < 4 ∧
      (hex 3 0x787805).length ≤ (used small 0 []).cfg.maxLen ∧ 1 < 2 ^ (used small 0 []).cfg.timeW := by decide

/-- Eight bytes after the protocol number, seven, and for the response two and one. -/
theorem witness_LoginIsDecodedAndAcknowledged :
    (∃ more, hex 8 0x0123456789012345 = 0x01 :: 0x23 :: 0x45 :: 0x67 :: 0x89 :: 0x01 :: 0x23 :: 0x45 :: more) ∧
      (hex 8 0x0123456789012345).length + 4 ≤ (used small 0 []).cfg.maxLen ∧ (hex 7 0).length < 8 ∧
      2 ≤ (hex 2 0).length ∧ ¬2 ≤ (hex 1 0).length ∧ 1 < 2 ^ (used small 0 []).cfg.timeW := by
  refine ⟨⟨[], ?_⟩, ?_⟩ <;> decide

/-- 17 bytes after the protocol number, the most that `small` admits, and 16. -/
theorem witness_GpsIsDecodedAndUnanswered :
    (∃ more, gpsBytes = 0x18 :: 0x0B :: 0x0A :: 0x0C :: 0x22 :: 0x38 :: 0x02 :: 0x69 :: 0xFB :: 0x20 :: 0x0C :: 0x3B ::
      0x1A :: 0x80 :: 0x3C :: 0x15 :: 0x4C :: more) ∧
      gpsBytes.length + 4 ≤ (used small 0 []).cfg.maxLen ∧ (hex 16 0).length < 17 ∧
      1 < 2 ^ (used small 0 []).cfg.timeW := by
  refine ⟨⟨[], ?_⟩, ?_⟩ <;> decide

theorem witness_StatusAndAlarmDecodeNothing :
    (hex 17 0).length + 4 ≤ (used small 0 []).cfg.maxLen ∧ 1 < 2 ^ (used small 0 []).cfg.timeW := by decide

theorem witness_HeartbeatIsAnsweredByTheLiteral :
    ([] : List Byte).length + 4 ≤ (used small 0 []).cfg.maxLen ∧ 1 < 2 ^ (used small 0 []).cfg.timeW := by decide

theorem witness_UnlistedProtocolIsUnknownAndUnanswered :
    (0x00 : Byte) ∉ ([0x01, 0x12, 0x13, 0x16, 0x26, 0x22] : List Byte) ∧
      (0xFF : Byte) ∉ ([0x01, 0x12, 0x13, 0x16, 0x26, 0x22] : List Byte) ∧ State.reset.cfg.ext22 = false ∧
      (hex 17 0).length + 4 ≤ State.reset.cfg.maxLen ∧ 1 < 2 ^ State.reset.cfg.timeW := by decide

theorem witness_GpsExt22IsGpsOrUnknownByParameter :
    ((used small 0 []).cfg.ext22 = true ∧ (hex 17 0).length + 4 ≤ (used small 0 []).cfg.maxLen ∧
      1 < 2 ^ (used small 0 []).cfg.timeW) ∧
    (State.reset.cfg.ext22 = false ∧ (hex 17 0).length + 4 ≤ State.reset.cfg.maxLen ∧
      1 < 2 ^ State.reset.cfg.timeW) := by decide

theorem witness_AckLoginFormatsTenBytes : 0 < 10 ∧ 9 < 10 := by decide

theorem witness_AckHeartbeatFormatsTheLiteral : 0 < 10 ∧ 9 < 10 := by decide

/-- Three bytes; four bytes, whose last is the protocol number. -/
theorem witness_DeliverCompletesWithRecordThenResponse :
    (hex 3 0x787805).length < 4 ∧ (hex 4 0x78780522)[3]? = some 0x22 ∧
      (hex 4 0x78780522).length ≤ (used small 0 []).cfg.maxLen ∧ 1 < 2 ^ (used small 0 []).cfg.timeW := by decide

/-- The clauses about the record are each met by a delivery: Login and Gps of the shortest lengths that decode and the
longest that do not, and a type without payload. -/
theorem witness_DeliverCompletesWithRecordThenResponse_clauses :
    [frameBytes (head 5) 0x01 (hex 8 1), frameBytes (head 5) 0x01 (hex 7 1), frameBytes (head 5) 0x12 gpsBytes,
      frameBytes (head 5) 0x12 (gpsBytes.take 16), frameBytes (head 5) 0x13 []].map
      (fun buf => (after (.deliver buf 1) (used small 0 [])).map (fun t => (t.record.mtype, t.record.decErr))) =
    [some (.login, false), some (.login, true), some (.gps, false), some (.gps, true), some (.status, false)] := by
  decide +kernel

/-- V-H2 with the smallest capacity: 22 bytes against 21, and 21. -/
theorem witness_DeliveryBeyondCapacityIsRefused :
    (used small 0 []).cfg.maxLen < (hex 22 0).length ∧ (used small 0 []).cfg.maxLen = (hex 21 0).length ∧
      1 < 2 ^ (used small 0 []).cfg.timeW := by decide

theorem witness_TimeSampleBeyondItsWidthIsRefused :
    (hex 21 0).length ≤ (used small 0 []).cfg.maxLen ∧ 2 ^ (used small 0 []).cfg.timeW ≤ 2 := by decide

theorem witness_RowOutsideItsConditionIsRefused :
    4 ≤ (hex 4 0x78780501).length ∧ (0x22 : Byte) ∈ ([0x01, 0x12, 0x13, 0x16, 0x26, 0x22] : List Byte) := by decide

theorem witness_DeliveryResultIgnoresPriorState :
    (used small 0x50A5 []).cfg = (used small 0 [.reset]).cfg ∧
      (hex 21 0).length ≤ (used small 0x50A5 []).cfg.maxLen ∧ 0 < 2 ^ (used small 0x50A5 []).cfg.timeW ∧
      1 < 2 ^ (used small 0x50A5 []).cfg.timeW := by decide

/-- Two Login deliveries of 18 bytes that differ in all that is not examined (V-P7 and V-P12c). -/
theorem witness_OnlyExaminedBytesBearOnResults_login :
    let buf := hex 18 0x78780D010123456789012345002AD5F90D0A
    let buf' := hex 18 0xAAAA0D010123456789012345002A00000000
    buf ≠ buf' ∧ buf.length ≤ (used small 0 []).cfg.maxLen ∧ buf.length = buf'.length ∧ buf[3]? = buf'[3]? ∧
      buf[3]? = some 0x01 ∧ (∀ i, 4 ≤ i → i ≤ 11 → buf[i]? = buf'[i]?) ∧
      buf[buf.length - 6]? = buf'[buf.length - 6]? ∧ buf[buf.length - 5]? = buf'[buf.length - 5]? := by
  refine ⟨by decide, by decide, by decide, by decide, by decide, ?_, by decide, by decide⟩
  intro i _ h
  have key : ∀ j, j < 12 → 4 ≤ j → (hex 18 0x78780D010123456789012345002AD5F90D0A)[j]? =
      (hex 18 0xAAAA0D010123456789012345002A00000000)[j]? := by decide
  exact key i (by omega) ‹_›

/-- Two 0x22 deliveries of 21 bytes with `EXT22 = 1` that differ in their first three bytes. -/
theorem witness_OnlyExaminedBytesBearOnResults_gps :
    let buf := frameBytes ⟨0x78, 0x78, 0x16⟩ 0x22 gpsBytes
    let buf' := frameBytes ⟨0x00, 0x00, 0x00⟩ 0x22 gpsBytes
    buf ≠ buf' ∧ buf.length ≤ (used small 0 []).cfg.maxLen ∧ buf.length = buf'.length ∧ buf[3]? = buf'[3]? ∧
      buf[3]? = some 0x22 ∧ (used small 0 []).cfg.ext22 = true ∧
      (∀ i, 4 ≤ i → i ≤ 20 → buf[i]? = buf'[i]?) := by
  refine ⟨by decide, by decide, by decide, by decide, by decide, by decide, ?_⟩
  intro i _ h
  have key : ∀ j, j < 21 → 4 ≤ j → (frameBytes ⟨0x78, 0x78, 0x16⟩ 0x22 gpsBytes)[j]? =
      (frameBytes ⟨0x00, 0x00, 0x00⟩ 0x22 gpsBytes)[j]? := by decide
  exact key i (by omega) ‹_›

/-- Four cells: the last read of each width that fits, and the first that does not. -/
theorem witness_MemReadIsBoundedAndBigEndian :
    (∀ i, i < 4 → Memory.read .fb (Memory.ofBytes 0 (hex 4 0x0269FB20)) i =
      some ((hex 4 0x0269FB20).getD i 0)) ∧
      (4 < 4 + 1 ∧ 4 < 3 + 2 ∧ 4 < 1 + 4) ∧ 3 + 1 ≤ 4 ∧ 2 + 2 ≤ 4 ∧ 0 + 4 ≤ 4 := by decide

/-- Six cells and five. -/
theorem witness_TailReadTakesBytesSixAndFiveBeforeTheEnd :
    (∀ i, i < 6 → Memory.read .fb (Memory.ofBytes 0 (hex 6 0x787805010009)) i =
      some ((hex 6 0x787805010009).getD i 0)) ∧ 6 ≤ 6 ∧
    (∀ i, i < 5 → Memory.read .fb (Memory.ofBytes 0 (hex 5 0x7878050100)) i =
      some ((hex 5 0x7878050100).getD i 0)) ∧ 5 < 6 := by decide

/-- The last offset of each width, over a buffer that is not empty. -/
theorem witness_MemWriteIsBigEndianAndLocal :
    Memory.wf .rb ([(9, 0x0A)] : Memory) ∧ (∀ c ∈ ([(9, 0x0A)] : Memory), c.1 < 10) ∧ 9 + 1 ≤ 10 ∧ 8 + 2 ≤ 10 := by
  decide

/-- `imei_lz` 15, 0 and 16. -/
theorem witness_ImeiFlagsCountLeadingZerosAndNondecimals :
    (14 < (imeiLz 1).toNat ∧ (imeiLz 1).toNat < 16) ∧ (imeiLz 0x1234567890123456).toNat = 0 ∧
      (imeiLz 0).toNat = 16 := by decide +kernel

theorem witness_ImeiDigitsAreNibblesHighFirst : 0 < 8 ∧ 7 < 8 := by decide

theorem witness_ImeiStringIsTheDigitsAfterLeadingZeros :
    imeiNondec 0x0391608033600100 = false ∧ 14 < 16 - (imeiLz 0x0391608033600100).toNat := by decide +kernel

theorem witness_HexlowerRendersTwoDigitsPerByte : 0 < ([0x0A] : List Byte).length := by decide

/-- Each check of `Instr.wf` at its boundary. -/
theorem witness_DecodeOfEncodeIsTheInstruction :
    (Instr.short (hex 3 0x787805) 1).wf = true ∧ (Instr.unknown (head 5) 0x00 [] 0).wf = true ∧
      (Instr.deliver (hex 4 0) 0).wf = true := by decide

theorem witness_AcceptedResponsesAreExactEncodings :
    decodeAck (hex 9 0x7878051300019D0D0A) = .ok .ackHeartbeat ∧
      decodeAck (hex 10 0x78780501FFFF967A0D0A) = .ok (.ackLogin 0xFF 0xFF) := by decide +kernel

theorem witness_OutboundRowsRunInsideADelivery :
    (used small 0x50A5 []).cfg.wf ∧ ∃ h l, Instr.ackLogin 0x00 0x2A = .ackLogin h l := ⟨by decide, _, _, rfl⟩

theorem witness_StepRunsTheOldestEvent :
    session.pending = .crcUpd 0x05 :: [.deliver (hex 21 0x12) 1, .deliver [] 0, .reset, .crcClr] := by decide

theorem witness_StepWithoutEventChangesNothing : (used small 0x50A5 []).pending = [] := by decide

theorem witness_PlacedWordIsTheNextInstruction :
    32 ≠ 72 ∧ 32 ≠ 80 ∧ decodeTableWord 32 0x78780526 = some (.heartbeat (head 5) [] 0) := by decide

/-- A state with an event that steps, for the invariants. -/
def beforeHeartbeat : State := used small 0x50A5 [.deliver (hex 4 0x78780526) 1]

theorem beforeHeartbeat_steps : ∃ t, step beforeHeartbeat = .next t := ⟨_, rfl⟩

theorem witness_StepKeepsMemoriesCanonical :
    beforeHeartbeat.MemoryInv ∧ ∃ t, step beforeHeartbeat = .next t :=
  ⟨⟨rfl, by decide, by decide, by decide, by decide⟩, beforeHeartbeat_steps⟩

theorem witness_StepKeepsRecordConsistent :
    beforeHeartbeat.record.Inv beforeHeartbeat.cfg ∧ ∃ t, step beforeHeartbeat = .next t :=
  ⟨by constructor <;> decide, beforeHeartbeat_steps⟩

theorem witness_StepKeepsResponseLengths :
    beforeHeartbeat.ResponseInv ∧ ∃ t, step beforeHeartbeat = .next t :=
  ⟨⟨by decide, by decide, by decide⟩, beforeHeartbeat_steps⟩

theorem witness_StepKeepsRegistersThoseOfTheDelivery :
    beforeHeartbeat.Coherent ∧ ∃ t, step beforeHeartbeat = .next t :=
  ⟨⟨fun _ => rfl, by decide, by decide⟩, beforeHeartbeat_steps⟩

theorem witness_NoInstructionChangesParameters :
    ∃ t, exec .crcClr (used small 0x50A5 [.reset]) = .next t := ⟨_, rfl⟩

/-- Each kind of oldest event, and none. -/
theorem witness_RecValidIsSetByDeliverOnly :
    (∃ t, step beforeHeartbeat = .next t) ∧ (∃ t, step (used small 0 [.reset]) = .next t) ∧
      (∃ t, step (used small 0 [.crcUpd 0x05]) = .next t) ∧ (∃ t, step (used small 0 [.crcClr]) = .next t) ∧
      (∃ t, step (used small 0 []) = .next t) :=
  ⟨beforeHeartbeat_steps, ⟨_, rfl⟩, ⟨_, rfl⟩, ⟨_, rfl⟩, ⟨_, rfl⟩⟩

theorem witness_AdmissibleStateStepsWithOneEventFewer :
    session.Admissible ∧
      session.pending = .crcUpd 0x05 :: [.deliver (hex 21 0x12) 1, .deliver [] 0, .reset, .crcClr] :=
  ⟨witness_CrcOfSessionIgnoresDeliveries, witness_StepRunsTheOldestEvent⟩

end Sys2Proof.Tests
end

section
/-! SUPPORT. The decoder's rows, the delivery each row of the opcode table is, and the two statements of 00_scope R7
that rest on them. -/

namespace Sys2Proof.Machine

/-! ### The rows of the decoder -/

/-- The protocol numbers with a row of their own (30_encoding R52, R53), and the rest. -/
theorem protocol_cases (t : Byte) :
    t = protoLogin ∨ t = protoGps ∨ t = protoStatus ∨ t = protoAlarm ∨ t = protoHeartbeat ∨ t = protoGpsExt22 ∨
      isRowProtocol t = false := by
  cases h : isRowProtocol t with
  | false => simp
  | true =>
    simp only [isRowProtocol, Bool.or_eq_true, beq_iff_eq] at h
    unfold protoLogin protoGps protoStatus protoAlarm protoHeartbeat protoGpsExt22
    tauto

theorem decodeFrame_short {buf : List Byte} (h : buf.length < 4) (now : Nat) :
    decodeFrame buf now = .short buf now := by
  match buf, h with
  | [], _ | [_], _ | [_, _], _ | [_, _, _], _ => rfl

@[simp] theorem decodeFrame_login (hdr : Header) (rest : List Byte) (now : Nat) :
    decodeFrame (frameBytes hdr protoLogin rest) now = .login hdr rest now := rfl

@[simp] theorem decodeFrame_gps (hdr : Header) (rest : List Byte) (now : Nat) :
    decodeFrame (frameBytes hdr protoGps rest) now = .gps hdr rest now := rfl

@[simp] theorem decodeFrame_status (hdr : Header) (rest : List Byte) (now : Nat) :
    decodeFrame (frameBytes hdr protoStatus rest) now = .status hdr rest now := rfl

@[simp] theorem decodeFrame_alarm (hdr : Header) (rest : List Byte) (now : Nat) :
    decodeFrame (frameBytes hdr protoAlarm rest) now = .alarm hdr rest now := rfl

@[simp] theorem decodeFrame_heartbeat (hdr : Header) (rest : List Byte) (now : Nat) :
    decodeFrame (frameBytes hdr protoHeartbeat rest) now = .heartbeat hdr rest now := rfl

@[simp] theorem decodeFrame_gpsExt22 (hdr : Header) (rest : List Byte) (now : Nat) :
    decodeFrame (frameBytes hdr protoGpsExt22 rest) now = .gpsExt22 hdr rest now := rfl

/-- A byte without a row is none of the six protocol numbers. -/
theorem ne_of_isRowProtocol_false {t : Byte} (h : isRowProtocol t = false) :
    t ≠ protoLogin ∧ t ≠ protoGps ∧ t ≠ protoStatus ∧ t ≠ protoAlarm ∧ t ≠ protoHeartbeat ∧ t ≠ protoGpsExt22 := by
  refine ⟨?_, ?_, ?_, ?_, ?_, ?_⟩ <;> rintro rfl <;> exact absurd h (by decide)

theorem decodeFrame_unknown (hdr : Header) {t : Byte} (rest : List Byte) (now : Nat) (h : isRowProtocol t = false) :
    decodeFrame (frameBytes hdr t rest) now = .unknown hdr t rest now := by
  obtain ⟨h1, h2, h3, h4, h5, h6⟩ := ne_of_isRowProtocol_false h
  simp [decodeFrame, frameBytes, h1, h2, h3, h4, h5, h6]

theorem classify_unknown (ext22 : Bool) {t : Byte} (h : isRowProtocol t = false) : classify ext22 t = .unknown := by
  obtain ⟨h1, h2, h3, h4, h5, h6⟩ := ne_of_isRowProtocol_false h
  simp [classify, h1, h2, h3, h4, h5, h6]

/-- The decoder gives an instruction whose row's condition is met. -/
theorem decodeFrame_wf (buf : List Byte) (now : Nat) : (decodeFrame buf now).wf = true := by
  by_cases hlen : buf.length < 4
  · rw [decodeFrame_short hlen]
    exact decide_eq_true hlen
  · obtain ⟨hdr, t, rest, rfl⟩ := frame_of_length (by omega : 4 ≤ buf.length)
    obtain rfl | rfl | rfl | rfl | rfl | rfl | h := protocol_cases t
    iterate 6 rfl
    rw [decodeFrame_unknown hdr rest now h]
    simp [Instr.wf, h]

theorem decodeEvent_wf (e : PortEvent) : (decodeEvent e).wf = true := by
  cases e with
  | deliver buf now => exact decodeFrame_wf buf now
  | crcUpd b => rfl
  | crcClr => rfl
  | reset => rfl

/-! ### The delivery of one message type -/

/-- The decoded record of a delivery of message type `m` (41_frame_parser R83 to R91). -/
def recordOfType (m : MsgType) (now : Nat) (fb : Memory) (flen : Nat) : Except Refusal Record :=
  match m with
  | .login => loginRecord now fb flen
  | .gps => gpsRecord now fb flen
  | .unknown | .status | .alarm | .heartbeat => .ok (plainRecord m now)

/-- A whole delivery whose message type is known to be `m`. -/
def typedDelivery (m : MsgType) (buf : List Byte) (now : Nat) (s : State) : Except Refusal State :=
  delivery buf now (recordOfType m now) (fun _ => buildResponse m) s

/-- The record of a loaded delivery is of the type it was decoded as. -/
theorem mtype_of_recordOfType {m : MsgType} {now : Nat} {buf : List Byte} {r : Record}
    (h : recordOfType m now (Memory.ofBytes 0 buf) buf.length = .ok r) : r.mtype = m := by
  cases m with
  | login =>
    rw [recordOfType, loginRecord_load] at h
    cases h
    split <;> rfl
  | gps =>
    rw [recordOfType, gpsRecord_load] at h
    cases h
    split <;> rfl
  | unknown | status | alarm | heartbeat => cases h; rfl

/-- A delivery depends on its two halves only through what they give on the loaded buffer. -/
theorem delivery_congr {buf : List Byte} {now : Nat} {dec dec' : Memory → Nat → Except Refusal Record}
    {resp resp' : Record → Memory → Nat → Except Refusal RespBuf} (s : State)
    (hd : dec (Memory.ofBytes 0 buf) buf.length = dec' (Memory.ofBytes 0 buf) buf.length)
    (hr : ∀ r, dec' (Memory.ofBytes 0 buf) buf.length = .ok r →
      resp r (Memory.ofBytes 0 buf) buf.length = resp' r (Memory.ofBytes 0 buf) buf.length) :
    delivery buf now dec resp s = delivery buf now dec' resp' s := by
  simp only [delivery, State.loadFrame_fb, State.loadFrame_flen, State.setRecord_fb, State.setRecord_flen,
    State.emit_fb, State.emit_flen, hd]
  cases h : dec' (Memory.ofBytes 0 buf) buf.length with
  | error e => rfl
  | ok r =>
    show (_ >>= fun _ => recordOut _ >>= fun _ => resp r _ _ >>= _) = _
    rw [hr r h]
    rfl

/-! ### DELIVER, by the length and the type of its frame -/

theorem decodeRecord_short (ext22 : Bool) (now : Nat) {buf : List Byte} (h : buf.length < 4) :
    decodeRecord ext22 now (Memory.ofBytes 0 buf) buf.length =
      recordOfType .unknown now (Memory.ofBytes 0 buf) buf.length :=
  if_pos h

theorem decodeRecord_frame (ext22 : Bool) (now : Nat) (hdr : Header) (t : Byte) (rest : List Byte) :
    decodeRecord ext22 now (Memory.ofBytes 0 (frameBytes hdr t rest)) (frameBytes hdr t rest).length =
      recordOfType (classify ext22 t) now (Memory.ofBytes 0 (frameBytes hdr t rest))
        (frameBytes hdr t rest).length := by
  have hlen : ¬ (frameBytes hdr t rest).length < 4 := by simp
  have htype : fbCell (Memory.ofBytes 0 (frameBytes hdr t rest)) 3 = .ok t := rfl
  rw [decodeRecord, if_neg hlen, htype]
  dsimp only
  cases classify ext22 t <;> rfl

/-- DELIVER is the delivery of the type its bytes decode to. -/
theorem exec_deliver_of_type {buf : List Byte} {now : Nat} {m : MsgType} (s : State)
    (h : decodeRecord s.cfg.ext22 now (Memory.ofBytes 0 buf) buf.length =
      recordOfType m now (Memory.ofBytes 0 buf) buf.length) :
    exec (.deliver buf now) s = toOutcome (typedDelivery m buf now s) :=
  congrArg toOutcome (delivery_congr s h fun r hr => by rw [mtype_of_recordOfType hr])

theorem exec_deliver_short {buf : List Byte} (h : buf.length < 4) (now : Nat) (s : State) :
    exec (.deliver buf now) s = toOutcome (typedDelivery .unknown buf now s) :=
  exec_deliver_of_type s (decodeRecord_short _ now h)

theorem exec_deliver_frame (hdr : Header) (t : Byte) (rest : List Byte) (now : Nat) (s : State) :
    exec (.deliver (frameBytes hdr t rest) now) s =
      toOutcome (typedDelivery (classify s.cfg.ext22 t) (frameBytes hdr t rest) now s) :=
  exec_deliver_of_type s (decodeRecord_frame _ now hdr t rest)

/-! ### The inbound rows, each by the type of its delivery -/

theorem exec_short {buf : List Byte} (h : buf.length < 4) (now : Nat) (s : State) :
    exec (.short buf now) s = toOutcome (typedDelivery .unknown buf now s) :=
  if_pos h

theorem exec_login (hdr : Header) (rest : List Byte) (now : Nat) (s : State) :
    exec (.login hdr rest now) s = toOutcome (typedDelivery .login (frameBytes hdr protoLogin rest) now s) := rfl

theorem exec_gps (hdr : Header) (rest : List Byte) (now : Nat) (s : State) :
    exec (.gps hdr rest now) s = toOutcome (typedDelivery .gps (frameBytes hdr protoGps rest) now s) := rfl

theorem exec_status (hdr : Header) (rest : List Byte) (now : Nat) (s : State) :
    exec (.status hdr rest now) s = toOutcome (typedDelivery .status (frameBytes hdr protoStatus rest) now s) := rfl

theorem exec_alarm (hdr : Header) (rest : List Byte) (now : Nat) (s : State) :
    exec (.alarm hdr rest now) s = toOutcome (typedDelivery .alarm (frameBytes hdr protoAlarm rest) now s) := rfl

theorem exec_heartbeat (hdr : Header) (rest : List Byte) (now : Nat) (s : State) :
    exec (.heartbeat hdr rest now) s =
      toOutcome (typedDelivery .heartbeat (frameBytes hdr protoHeartbeat rest) now s) := rfl

/-- 0x22 is Gps or Unknown as EXT22 says (30_encoding R53). -/
theorem exec_gpsExt22 (hdr : Header) (rest : List Byte) (now : Nat) (s : State) :
    exec (.gpsExt22 hdr rest now) s =
      toOutcome (typedDelivery (classify s.cfg.ext22 protoGpsExt22) (frameBytes hdr protoGpsExt22 rest) now s) := by
  show execGpsExt22 hdr rest now s = _
  unfold execGpsExt22
  cases s.cfg.ext22 <;> rfl

theorem exec_unknown (hdr : Header) {t : Byte} (rest : List Byte) (now : Nat) (s : State)
    (h : isRowProtocol t = false) :
    exec (.unknown hdr t rest now) s = toOutcome (typedDelivery .unknown (frameBytes hdr t rest) now s) :=
  if_neg (by simp [h])

/-- The row a frame decodes to is the delivery of the type its protocol number is classified as. -/
theorem exec_decodeFrame_frame (hdr : Header) (t : Byte) (rest : List Byte) (now : Nat) (s : State) :
    exec (decodeFrame (frameBytes hdr t rest) now) s =
      toOutcome (typedDelivery (classify s.cfg.ext22 t) (frameBytes hdr t rest) now s) := by
  obtain rfl | rfl | rfl | rfl | rfl | rfl | h := protocol_cases t
  · exact exec_login hdr rest now s
  · exact exec_gps hdr rest now s
  · exact exec_status hdr rest now s
  · exact exec_alarm hdr rest now s
  · exact exec_heartbeat hdr rest now s
  · exact exec_gpsExt22 hdr rest now s
  · rw [decodeFrame_unknown hdr rest now h, classify_unknown _ h]
    exact exec_unknown hdr rest now s h

/-! ### 00_scope R7 -/

/-- Settles O25: under four bytes both sides are the delivery of type Unknown, and from four bytes on both are the
delivery of the type `classify` gives the protocol number. -/
theorem deliverDispatchesToItsRow : Obligations.DeliverDispatchesToItsRow := by
  intro s buf now
  by_cases hlen : buf.length < 4
  · rw [decodeFrame_short hlen, exec_deliver_short hlen, exec_short hlen]
  · obtain ⟨hdr, t, rest, rfl⟩ := frame_of_length (by omega : 4 ≤ buf.length)
    rw [exec_deliver_frame, exec_decodeFrame_frame]

/-- Settles O45, by `step_cons` and the decoder's well-formedness on every event. -/
theorem stepRunsTheOldestEvent : Obligations.StepRunsTheOldestEvent :=
  fun _ e _ h => ⟨rfl, decodeEvent_wf e, step_cons h⟩

end Sys2Proof.Machine
end

section
/-! SUPPORT. What a step can do, said once, and from it the statements about the state registers: the values at
reset, the invariants that every step keeps, and `crc` over a session (10_state). -/

namespace Sys2Proof.Machine

/-! ### The two halves of a delivery on a loaded buffer -/

/-- `decode` of a loaded delivery is the decoding of one message type. -/
theorem decodeRecord_load_eq_recordOfType (ext22 : Bool) (now : Nat) (buf : List Byte) :
    ∃ m, decodeRecord ext22 now (Memory.ofBytes 0 buf) buf.length =
      recordOfType m now (Memory.ofBytes 0 buf) buf.length := by
  by_cases hlen : buf.length < 4
  · exact ⟨_, decodeRecord_short ext22 now hlen⟩
  · obtain ⟨hdr, t, rest, rfl⟩ := frame_of_length (by omega : 4 ≤ buf.length)
    exact ⟨_, decodeRecord_frame ext22 now hdr t rest⟩

/-- On a loaded buffer `decode` reads no cell without a value. -/
theorem decodeRecord_load_ok (ext22 : Bool) (now : Nat) (buf : List Byte) :
    ∃ r, decodeRecord ext22 now (Memory.ofBytes 0 buf) buf.length = .ok r := by
  obtain ⟨m, hm⟩ := decodeRecord_load_eq_recordOfType ext22 now buf
  rw [hm]
  cases m with
  | login => exact ⟨_, loginRecord_load now buf⟩
  | gps => exact ⟨_, gpsRecord_load now buf⟩
  | unknown | status | alarm | heartbeat => exact ⟨_, rfl⟩

/-- On a loaded buffer `buildResponse` answers nothing, ACK_LOGIN or the Heartbeat literal. -/
theorem buildResponse_load_holds (m : MsgType) (buf : List Byte) :
    ∃ p resp, buildResponse m (Memory.ofBytes 0 buf) buf.length = .ok p ∧ p.Holds resp ∧
      (resp.length = 0 ∨ resp.length = 9 ∨ resp.length = 10) := by
  cases m with
  | login =>
    by_cases hlen : 6 ≤ buf.length
    · exact ⟨_, _, (respondLogin_load buf).trans (by rw [if_pos hlen]), ackLogin_holds _ _, .inr (.inr rfl)⟩
    · exact ⟨_, _, (respondLogin_load buf).trans (by rw [if_neg hlen]), noResponse_holds, .inl rfl⟩
  | heartbeat => exact ⟨_, _, rfl, ackHeartbeat_holds, .inr (.inl rfl)⟩
  | unknown | gps | status | alarm => exact ⟨_, _, rfl, noResponse_holds, .inl rfl⟩

/-! ### What one event does -/

/-- The record and the response registers that a delivery of `buf` at `now` leaves, for a parameter EXT22. -/
structure Decodes (ext22 : Bool) (buf : List Byte) (now : Nat) (r : Record) (p : RespBuf) : Prop where
  record : decodeRecord ext22 now (Memory.ofBytes 0 buf) buf.length = .ok r
  response : buildResponse r.mtype (Memory.ofBytes 0 buf) buf.length = .ok p

theorem exec_decodeFrame_of_decodes {s : State} {buf : List Byte} {now : Nat} {r : Record} {p : RespBuf}
    (fits : deliveryFits s.cfg buf.length now = true) (h : Decodes s.cfg.ext22 buf now r p) :
    exec (decodeFrame buf now) s = .next (afterDelivery s buf r p) :=
  (deliverDispatchesToItsRow s buf now).symm.trans (congrArg toOutcome (delivery_eq fits h.record h.response))

theorem exec_decodeFrame_next {s t : State} {buf : List Byte} {now : Nat}
    (h : exec (decodeFrame buf now) s = .next t) :
    deliveryFits s.cfg buf.length now = true ∧
      ∃ r p, Decodes s.cfg.ext22 buf now r p ∧ t = afterDelivery s buf r p := by
  have hdeliver := toOutcome_eq_next.1 ((deliverDispatchesToItsRow s buf now).trans h)
  obtain ⟨fits, r, p, hr, hp, ht⟩ := delivery_ok hdeliver
  exact ⟨fits, r, p, ⟨hr, hp⟩, ht⟩

/-- Everything one step can do, by the oldest pending event. -/
inductive StepsTo (s : State) : State → Prop
  | idle (hp : s.pending = []) : StepsTo s s
  | deliver {buf : List Byte} {now : Nat} {es : List PortEvent} {r : Record} {p : RespBuf}
      (hp : s.pending = .deliver buf now :: es) (fits : deliveryFits s.cfg buf.length now = true)
      (h : Decodes s.cfg.ext22 buf now r p) : StepsTo s (afterDelivery { s with pending := es } buf r p)
  | crcUpd {b : Byte} {es : List PortEvent} (hp : s.pending = .crcUpd b :: es) :
      StepsTo s (State.setCrc { s with pending := es } (crcUpdate s.crc b))
  | crcClr {es : List PortEvent} (hp : s.pending = .crcClr :: es) :
      StepsTo s (State.setCrc { s with pending := es } crcInit)
  | reset {es : List PortEvent} (hp : s.pending = .reset :: es) :
      StepsTo s (State.resetOf s.cfg es s.observed)

theorem stepsTo_of_step {s t : State} (h : step s = .next t) : StepsTo s t := by
  cases hp : s.pending with
  | nil =>
    rw [step_nil hp] at h
    cases h
    exact .idle hp
  | cons e es =>
    rw [step_cons hp] at h
    cases e with
    | deliver buf now =>
      obtain ⟨fits, r, p, hd, rfl⟩ := exec_decodeFrame_next h
      exact .deliver hp fits hd
    | crcUpd b => cases h; exact .crcUpd hp
    | crcClr => cases h; exact .crcClr hp
    | reset => cases h; exact .reset hp

/-- A step whose oldest event fits the parameters answers a next state. -/
theorem step_of_fits {s : State} {e : PortEvent} {es : List PortEvent} (hp : s.pending = e :: es)
    (fits : e.fits s.cfg = true) : ∃ t, step s = .next t := by
  rw [step_cons hp]
  cases e with
  | deliver buf now =>
    obtain ⟨r, hr⟩ := decodeRecord_load_ok s.cfg.ext22 now buf
    obtain ⟨p, _, hresp, _⟩ := buildResponse_load_holds r.mtype buf
    exact ⟨_, exec_decodeFrame_of_decodes fits ⟨hr, hresp⟩⟩
  | crcUpd b => exact ⟨_, rfl⟩
  | crcClr => exact ⟨_, rfl⟩
  | reset => exact ⟨_, rfl⟩

/-! ### The memories -/

theorem memoryInv_resetOf (c : Config) (es : List PortEvent) (o : List Observation) :
    (State.resetOf c es o).MemoryInv where
  fb_offsets := rfl
  fb_wf := wf_nil .fb
  flen_le := Nat.zero_le _
  rb_wf := wf_nil .rb
  rb_offsets := fun _ h => nomatch h

theorem memoryInv_afterDelivery {s : State} {buf : List Byte} {now : Nat} {r : Record} {p : RespBuf}
    (fits : deliveryFits s.cfg buf.length now = true) (h : Decodes s.cfg.ext22 buf now r p) :
    (afterDelivery s buf r p).MemoryInv := by
  obtain ⟨q, resp, hq, holds, -⟩ := buildResponse_load_holds r.mtype buf
  obtain rfl : q = p := Except.ok.inj (hq.symm.trans h.response)
  simp only [deliveryFits, Bool.and_eq_true, decide_eq_true_eq] at fits
  exact {
    fb_offsets := by simp [Memory.fst_ofBytes, List.range_eq_range']
    fb_wf := by simpa using Memory.wf_ofBytes buf 0
    flen_le := by simpa using fits.1
    rb_wf := by simpa using holds.wf
    rb_offsets := by simpa using holds.offsets }

/-- The memory invariant is about FB, `flen`, MAXLEN and RB, none of which the CRC port writes. -/
theorem memoryInv_setCrc {s : State} (h : s.MemoryInv) (es : List PortEvent) (v : CrcWord) :
    (State.setCrc { s with pending := es } v).MemoryInv :=
  ⟨h.fb_offsets, h.fb_wf, h.flen_le, h.rb_wf, h.rb_offsets⟩

/-- Settles O49: a delivery loads FB whole and writes RB whole, the CRC port writes no memory, RESET empties both. -/
theorem stepKeepsMemoriesCanonical : Obligations.StepKeepsMemoriesCanonical := by
  intro s t hs h
  cases stepsTo_of_step h with
  | idle => exact hs
  | deliver _ fits hd => exact memoryInv_afterDelivery (s := { s with pending := _ }) fits hd
  | crcUpd => exact memoryInv_setCrc hs _ _
  | crcClr => exact memoryInv_setCrc hs _ _
  | reset => exact memoryInv_resetOf _ _ _

/-! ### The record registers -/

/-- `imei_lz` is an index below 16 or 16 (10_state R27). -/
theorem imeiLz_le (bcd : BitVec 64) : (imeiLz bcd).toNat ≤ 16 := by
  have h : (List.range 16).findIdx (fun k => imeiDigit bcd k != 0) ≤ 16 := List.findIdx_le_length
  exact (Nat.mod_le _ _).trans h

/-- The year field is 2000 and one byte, without wrap (41_frame_parser R86). -/
theorem gpsYear_toNat (y : Byte) : (gpsYear y).toNat = 2000 + y.toNat := by
  have := y.isLt
  have hbase : (2000 : BitVec 12).toNat = 2000 := rfl
  simp only [gpsYear, BitVec.toNat_add, BitVec.toNat_setWidth, hbase]
  omega

section
variable {c : Config} {now : Nat} (hnow : now < 2 ^ c.timeW)
include hnow

theorem inv_plainRecord {m : MsgType} (hl : m ≠ .login) (hg : m ≠ .gps) : (plainRecord m now).Inv c where
  login_payload := fun h => nomatch h
  gps_payload := fun h => nomatch h
  imei_zero := fun _ => rfl
  gps_zero := fun _ => rfl
  error_type := fun h => nomatch h
  payload_of_login := fun h _ => absurd h hl
  payload_of_gps := fun h _ => absurd h hg
  cause := rfl
  time_width := hnow
  lz_le := Nat.zero_le _
  year_range := fun h => nomatch h

theorem inv_recordDecodeError {m : MsgType} (hm : m = .login ∨ m = .gps) :
    (plainRecord m now).recordDecodeError.Inv c where
  login_payload := fun h => nomatch h
  gps_payload := fun h => nomatch h
  imei_zero := fun _ => rfl
  gps_zero := fun _ => rfl
  error_type := fun _ => hm
  payload_of_login := fun _ h => nomatch h
  payload_of_gps := fun _ h => nomatch h
  cause := rfl
  time_width := hnow
  lz_le := Nat.zero_le _
  year_range := fun h => nomatch h

theorem inv_loginPayload (bcd : BitVec 64) :
    Record.Inv c { plainRecord .login now with pkind := .login, imei := imeiOf bcd } where
  login_payload := fun _ => ⟨rfl, rfl⟩
  gps_payload := fun h => nomatch h
  imei_zero := fun h => absurd rfl h
  gps_zero := fun _ => rfl
  error_type := fun h => nomatch h
  payload_of_login := fun _ _ => rfl
  payload_of_gps := fun h => nomatch h
  cause := rfl
  time_width := hnow
  lz_le := imeiLz_le bcd
  year_range := fun h => nomatch h

theorem inv_gpsPayload (buf : List Byte) :
    Record.Inv c { plainRecord .gps now with pkind := .gps, gps := gpsFields buf } where
  login_payload := fun h => nomatch h
  gps_payload := fun _ => ⟨rfl, rfl⟩
  imei_zero := fun _ => rfl
  gps_zero := fun h => absurd rfl h
  error_type := fun h => nomatch h
  payload_of_login := fun h => nomatch h
  payload_of_gps := fun _ _ => rfl
  cause := rfl
  time_width := hnow
  lz_le := Nat.zero_le _
  year_range := fun _ => by
    have := (buf.getD 4 0).isLt
    simp only [gpsFields, gpsYear_toNat]
    omega

theorem inv_recordOfType {m : MsgType} {buf : List Byte} {r : Record}
    (h : recordOfType m now (Memory.ofBytes 0 buf) buf.length = .ok r) : r.Inv c := by
  cases m with
  | login =>
    obtain rfl := Except.ok.inj ((loginRecord_load now buf).symm.trans h)
    split
    · exact inv_loginPayload hnow _
    · exact inv_recordDecodeError hnow (.inl rfl)
  | gps =>
    obtain rfl := Except.ok.inj ((gpsRecord_load now buf).symm.trans h)
    split
    · exact inv_gpsPayload hnow _
    · exact inv_recordDecodeError hnow (.inr rfl)
  | unknown | status | alarm | heartbeat =>
    cases h
    exact inv_plainRecord hnow (by decide) (by decide)

end

theorem inv_decodeRecord {c : Config} {buf : List Byte} {now : Nat} {r : Record} {ext22 : Bool}
    (fits : deliveryFits c buf.length now = true)
    (h : decodeRecord ext22 now (Memory.ofBytes 0 buf) buf.length = .ok r) : r.Inv c := by
  simp only [deliveryFits, Bool.and_eq_true, decide_eq_true_eq] at fits
  obtain ⟨m, hm⟩ := decodeRecord_load_eq_recordOfType ext22 now buf
  exact inv_recordOfType fits.2 (hm.symm.trans h)

/-- The cleared record is that of an Unknown delivery at time 0. -/
theorem inv_blank_zero (c : Config) : (Record.blank 0).Inv c :=
  inv_plainRecord (m := .unknown) (Nat.two_pow_pos _) (by decide) (by decide)

/-- Settles O50: only a delivery and RESET write the record, the first what `decode` gives, the second the cleared
record. -/
theorem stepKeepsRecordConsistent : Obligations.StepKeepsRecordConsistent := by
  intro s t hs h
  cases stepsTo_of_step h with
  | idle => exact hs
  | deliver _ fits hd => simpa using inv_decodeRecord fits hd.record
  | crcUpd => exact hs
  | crcClr => exact hs
  | reset => exact inv_blank_zero _

/-! ### The response registers -/

theorem responseInv_resetOf (c : Config) (es : List PortEvent) (o : List Observation) :
    (State.resetOf c es o).ResponseInv where
  lengths := .inl rfl
  cell9 := fun h => nomatch h
  cleared := fun _ _ hoff => State.rbRead_of_lt _ hoff

/-- Registers that hold 0, 9 or 10 bytes and 0x00 beyond them are as R20 says. -/
theorem responseInv_of_holds {s : State} {resp : List Byte} (h : RespBuf.Holds ⟨s.rb, s.rlen⟩ resp)
    (hlen : resp.length = 0 ∨ resp.length = 9 ∨ resp.length = 10) : s.ResponseInv := by
  have hrlen : s.rlen.toNat = resp.length := h.rlen
  have beyond : ∀ off, off < 10 → resp.length ≤ off → s.rbRead off = some 0x00 := by
    intro off hoff hle
    rw [State.rbRead_of_lt s hoff, h.cells off hoff, List.getD_eq_default _ _ hle]
  exact {
    lengths := by bv_omega
    cell9 := fun h9 => beyond 9 (by decide) (by bv_omega)
    cleared := fun h0 off hoff => beyond off hoff (by bv_omega) }

theorem responseInv_afterDelivery {s : State} {buf : List Byte} {now : Nat} {r : Record} {p : RespBuf}
    (h : Decodes s.cfg.ext22 buf now r p) : (afterDelivery s buf r p).ResponseInv := by
  obtain ⟨q, resp, hq, holds, hlen⟩ := buildResponse_load_holds r.mtype buf
  obtain rfl : q = p := Except.ok.inj (hq.symm.trans h.response)
  exact responseInv_of_holds (by simpa using holds) hlen

/-- Settles O51: a delivery leaves the registers of a response of 0, 9 or 10 bytes, the CRC port does not write them,
RESET clears them. -/
theorem stepKeepsResponseLengths : Obligations.StepKeepsResponseLengths := by
  intro s t hs h
  cases stepsTo_of_step h with
  | idle => exact hs
  | deliver _ _ hd => exact responseInv_afterDelivery (s := { s with pending := _ }) hd
  | crcUpd => exact ⟨hs.lengths, hs.cell9, hs.cleared⟩
  | crcClr => exact ⟨hs.lengths, hs.cell9, hs.cleared⟩
  | reset => exact responseInv_resetOf _ _ _

/-! ### The registers as a function of the delivery -/

/-- The record carries the time sample it was decoded with (10_state R18). -/
theorem rxTime_of_recordOfType {m : MsgType} {now : Nat} {buf : List Byte} {r : Record}
    (h : recordOfType m now (Memory.ofBytes 0 buf) buf.length = .ok r) : r.rxTime = now := by
  cases m with
  | login =>
    obtain rfl := Except.ok.inj ((loginRecord_load now buf).symm.trans h)
    split <;> rfl
  | gps =>
    obtain rfl := Except.ok.inj ((gpsRecord_load now buf).symm.trans h)
    split <;> rfl
  | unknown | status | alarm | heartbeat => cases h; rfl

theorem Decodes.rxTime {ext22 : Bool} {buf : List Byte} {now : Nat} {r : Record} {p : RespBuf}
    (h : Decodes ext22 buf now r p) : r.rxTime = now := by
  obtain ⟨m, hm⟩ := decodeRecord_load_eq_recordOfType ext22 now buf
  exact rxTime_of_recordOfType (hm.symm.trans h.record)

theorem coherent_resetOf (c : Config) (es : List PortEvent) (o : List Observation) :
    (State.resetOf c es o).Coherent where
  before := fun _ => rfl
  decoded := fun h => nomatch h
  answered := fun h => nomatch h

theorem coherent_afterDelivery {s : State} {buf : List Byte} {now : Nat} {r : Record} {p : RespBuf}
    (h : Decodes s.cfg.ext22 buf now r p) : (afterDelivery s buf r p).Coherent where
  before := fun hv => by simp at hv
  decoded := fun _ => by simpa [h.rxTime] using h.record
  answered := fun _ => by simpa using h.response

/-- The CRC port writes no register but `crc`, which the reset values of `before` leave open. -/
theorem coherent_setCrc {s : State} (h : s.Coherent) (es : List PortEvent) (v : CrcWord) :
    (State.setCrc { s with pending := es } v).Coherent where
  before := fun hv => congrArg (fun u : State => State.setCrc { u with pending := es } v) (h.before hv)
  decoded := h.decoded
  answered := h.answered

/-- Settles O52: a delivery leaves what `decode` and `buildResponse` give of the FB it loads, the CRC port writes
neither side, RESET gives the reset values. -/
theorem stepKeepsRegistersThoseOfTheDelivery : Obligations.StepKeepsRegistersThoseOfTheDelivery := by
  intro s t hs h
  cases stepsTo_of_step h with
  | idle => exact hs
  | deliver _ _ hd => exact coherent_afterDelivery (s := { s with pending := _ }) hd
  | crcUpd => exact coherent_setCrc hs _ _
  | crcClr => exact coherent_setCrc hs _ _
  | reset => exact coherent_resetOf _ _ _

/-! ### The parameters, the pending events and the observations -/

/-- The parameters and the pending events are kept, and the observations only added to. -/
structure KeepsEnvironment (s t : State) : Prop where
  cfg : t.cfg = s.cfg
  pending : t.pending = s.pending
  observed : s.observed <+: t.observed

theorem keepsEnvironment_delivery {s t : State} {buf : List Byte} {now : Nat}
    {dec : Memory → Nat → Except Refusal Record} {resp : Record → Memory → Nat → Except Refusal RespBuf}
    (h : toOutcome (delivery buf now dec resp s) = .next t) : KeepsEnvironment s t := by
  obtain ⟨-, r, p, -, -, rfl⟩ := delivery_ok (toOutcome_eq_next.1 h)
  exact { cfg := by simp, pending := by simp, observed := by simp }

theorem keepsEnvironment_setCrc (s : State) (v : CrcWord) : KeepsEnvironment s (s.setCrc v) :=
  ⟨rfl, rfl, List.prefix_append _ _⟩

theorem keepsEnvironment_of_observed_eq {s t : State} (hc : t.cfg = s.cfg) (hp : t.pending = s.pending)
    (ho : t.observed = s.observed) : KeepsEnvironment s t :=
  ⟨hc, hp, ho ▸ List.prefix_rfl⟩

/-- SHORT on four bytes or more is refused (log entry 10). -/
theorem exec_short_refused {buf : List Byte} (h : ¬ buf.length < 4) (now : Nat) (s : State) :
    exec (.short buf now) s = .refused .rowConditionNotMet :=
  if_neg h

/-- UNKNOWN on a protocol number with a row of its own is refused (log entry 10). -/
theorem exec_unknown_refused (hdr : Header) {t : Byte} (rest : List Byte) (now : Nat) (s : State)
    (h : isRowProtocol t = true) : exec (.unknown hdr t rest now) s = .refused .rowConditionNotMet :=
  if_pos h

theorem exec_keepsEnvironment {i : Instr} {s t : State} (h : exec i s = .next t) : KeepsEnvironment s t := by
  cases i with
  | short buf now =>
    by_cases hlen : buf.length < 4
    · exact keepsEnvironment_delivery ((exec_short hlen now s).symm.trans h)
    · exact nomatch (exec_short_refused hlen now s).symm.trans h
  | login hdr rest now => exact keepsEnvironment_delivery h
  | gps hdr rest now => exact keepsEnvironment_delivery h
  | status hdr rest now => exact keepsEnvironment_delivery h
  | alarm hdr rest now => exact keepsEnvironment_delivery h
  | heartbeat hdr rest now => exact keepsEnvironment_delivery h
  | gpsExt22 hdr rest now => exact keepsEnvironment_delivery ((exec_gpsExt22 hdr rest now s).symm.trans h)
  | unknown hdr t rest now =>
    cases hrow : isRowProtocol t with
    | false => exact keepsEnvironment_delivery ((exec_unknown hdr rest now s hrow).symm.trans h)
    | true => exact nomatch (exec_unknown_refused hdr rest now s hrow).symm.trans h
  | ackLogin h l => cases h; exact keepsEnvironment_of_observed_eq rfl rfl rfl
  | ackHeartbeat => cases h; exact keepsEnvironment_of_observed_eq rfl rfl rfl
  | crcUpd b => cases h; exact keepsEnvironment_setCrc s _
  | crcClr => cases h; exact keepsEnvironment_setCrc s _
  | deliver buf now => exact keepsEnvironment_delivery h
  | reset => cases h; exact keepsEnvironment_of_observed_eq rfl rfl rfl

/-- Settles O53, by the kind of instruction: a delivery, a CRC-port event, or one that emits nothing. -/
theorem noInstructionChangesParameters : Obligations.NoInstructionChangesParameters := by
  intro i s t h
  obtain ⟨hcfg, hpending, hobserved⟩ := exec_keepsEnvironment h
  exact ⟨hcfg, hpending, hobserved⟩

/-! ### `rec_valid` -/

/-- Settles O54, by the oldest pending event. -/
theorem recValidIsSetByDeliverOnly : Obligations.RecValidIsSetByDeliverOnly := by
  intro s t h
  cases stepsTo_of_step h with
  | idle hp => rw [hp]; rfl
  | deliver hp => rw [hp]; exact afterDelivery_recValid _ _ _ _
  | crcUpd hp => rw [hp]; rfl
  | crcClr hp => rw [hp]; rfl
  | reset hp => rw [hp]; rfl

/-! ### `crc` over a session -/

/-- What a step with a pending event does to the queue, the parameters and `crc`. -/
theorem step_pending_cfg_crc {s t : State} {e : PortEvent} {es : List PortEvent} (hp : s.pending = e :: es)
    (h : step s = .next t) : t.pending = es ∧ t.cfg = s.cfg ∧ t.crc = e.crcAfter s.crc := by
  cases stepsTo_of_step h with
  | idle hq => exact nomatch hp.symm.trans hq
  | deliver hq => cases hp.symm.trans hq; simp [PortEvent.crcAfter]
  | crcUpd hq => cases hp.symm.trans hq; exact ⟨rfl, rfl, rfl⟩
  | crcClr hq => cases hp.symm.trans hq; exact ⟨rfl, rfl, rfl⟩
  | reset hq => cases hp.symm.trans hq; exact ⟨rfl, rfl, rfl⟩

/-- An admissible state with an event pending steps, to an admissible state. -/
theorem admissible_step {s : State} {e : PortEvent} {es : List PortEvent} (hs : s.Admissible)
    (hp : s.pending = e :: es) :
    ∃ t, step s = .next t ∧ t.Admissible ∧ t.pending = es ∧ t.cfg = s.cfg ∧ t.crc = e.crcAfter s.crc := by
  obtain ⟨t, ht⟩ := step_of_fits hp (hs e (by simp [hp]))
  obtain ⟨hpending, hcfg, hcrc⟩ := step_pending_cfg_crc hp ht
  refine ⟨t, ht, fun d hd => ?_, hpending, hcfg, hcrc⟩
  rw [hcfg]
  exact hs d (by rw [hp]; exact List.mem_cons_of_mem e (hpending ▸ hd))

theorem run_pending_crc {s : State} {es : List PortEvent} (hs : s.Admissible) (hp : s.pending = es) :
    ∃ t, run es.length s = .next t ∧ t.crc = es.foldl PortEvent.crcAfter s.crc := by
  induction es generalizing s with
  | nil => exact ⟨s, rfl, rfl⟩
  | cons e es ih =>
    obtain ⟨u, hstep, hu, hpending, -, hcrc⟩ := admissible_step hs hp
    obtain ⟨t, hrun, ht⟩ := ih hu hpending
    exact ⟨t, (run_succ es.length hstep).trans hrun, by rw [ht, hcrc, List.foldl_cons]⟩

/-- Settles O13, by induction on the pending events: each step folds its event into `crc`. -/
theorem crcOfSessionIgnoresDeliveries : Obligations.CrcOfSessionIgnoresDeliveries :=
  fun _ hs => run_pending_crc hs rfl

/-! ### Reset -/

/-- After reset no FB cell has a value (10_state R26). -/
theorem fbRead_resetOf (c : Config) (es : List PortEvent) (o : List Observation) (off : Nat) :
    (State.resetOf c es o).fbRead off = none :=
  State.fbRead_of_load _ [] rfl (Nat.zero_le _) off

/-- Settles O1, by evaluation of the reset state and the reads of its empty memories. -/
theorem resetStateHoldsSpecifiedValues : Obligations.ResetStateHoldsSpecifiedValues :=
  ⟨rfl, rfl, rfl, rfl, rfl, rfl, rfl, rfl, rfl, rfl, rfl, fbRead_resetOf _ _ _,
    (responseInv_resetOf _ _ _).cleared rfl⟩

/-- Settles O48: each invariant holds of the reset registers whatever the parameters, and the queue is empty. -/
theorem invariantsHoldAtReset : Obligations.InvariantsHoldAtReset :=
  ⟨by decide, memoryInv_resetOf _ _ _, inv_blank_zero _, responseInv_resetOf _ _ _, coherent_resetOf _ _ _,
    fun _ h => nomatch h⟩

end Sys2Proof.Machine
end

section
/-! SUPPORT. The reads of any frame buffer whose cells below `flen` have values, the value of a big-endian field, and
the statements of 20_memory that rest on them. -/

namespace Sys2Proof.Machine

/-! ### Big-endian values -/

/-- A byte placed below a field: the field's value moves up by one byte (20_memory R32). -/
theorem toNat_append_byte {w : Nat} (x : BitVec w) (b : Byte) : (x ++ b).toNat = x.toNat * 2 ^ 8 + b.toNat := by
  rw [BitVec.toNat_append, ← Nat.shiftLeft_add_eq_or_of_lt b.isLt, Nat.shiftLeft_eq]

/-! ### Reads below the end of the delivery -/

section
variable {fb : Memory} {flen : Nat} {cell : Nat → Byte} (hcell : ∀ i, i < flen → fb.read .fb i = some (cell i))
include hcell

theorem fbCell_of_lt {off : Nat} (h : off < flen) : fbCell fb off = .ok (cell off) := by
  rw [fbCell, hcell off h]

theorem memRead1_fits {off : Nat} (h : off + 1 ≤ flen) : memRead1 fb flen off = .ok (cell off) := by
  rw [memRead1, inBounds_ok h, fbCell_of_lt hcell h]
  rfl

theorem memRead2_fits {off : Nat} (h : off + 2 ≤ flen) :
    memRead2 fb flen off = .ok (cell off ++ cell (off + 1)) := by
  rw [memRead2, inBounds_ok h, fbCell_of_lt hcell (by omega), fbCell_of_lt hcell h]
  rfl

theorem memRead4_fits {off : Nat} (h : off + 4 ≤ flen) :
    memRead4 fb flen off = .ok (cell off ++ cell (off + 1) ++ cell (off + 2) ++ cell (off + 3)) := by
  rw [memRead4, inBounds_ok h, fbCell_of_lt hcell (by omega), fbCell_of_lt hcell (by omega),
    fbCell_of_lt hcell (by omega), fbCell_of_lt hcell h]
  rfl

theorem tailSerial_fits (h : 6 ≤ flen) :
    tailSerial fb flen = .ok (some (cell (flen - 6), cell (flen - 5))) := by
  rw [tailSerial, if_neg (by omega), fbCell_of_lt hcell (by omega), fbCell_of_lt hcell (by omega)]
  rfl

end

/-- Settles O31: the bounds check decides between the exception and the cells, and each byte read after the first
moves the value up by one byte. -/
theorem memReadIsBoundedAndBigEndian : Obligations.MemReadIsBoundedAndBigEndian := by
  intro fb flen off cell hcell
  refine ⟨memRead1_short fb, memRead2_short fb, memRead4_short fb, memRead1_fits hcell,
    fun h => ⟨_, memRead2_fits hcell h, ?_⟩, fun h => ⟨_, memRead4_fits hcell h, ?_⟩⟩
  · exact toNat_append_byte _ _
  · simp only [toNat_append_byte]
    omega

/-- Settles O32: below `flen` every cell has its value, and the two offsets are below it. -/
theorem tailReadTakesBytesSixAndFiveBeforeTheEnd : Obligations.TailReadTakesBytesSixAndFiveBeforeTheEnd :=
  fun fb _ _ hcell => ⟨tailSerial_fits hcell, tailSerial_short fb⟩

/-! ### Writes of the response buffer -/

/-- One cell after `MemWrite(off, 2, v)`: the high byte stands at the lower offset (20_memory R38). -/
theorem rbCell_memWrite2 (rb : Memory) (off a : Nat) (v : BitVec 16) :
    rbCell (memWrite2 rb off v) a =
      if a = off then highByte v else if a = off + 1 then lowByte v else rbCell rb a := by
  rw [memWrite2, rbCell_memWrite1, rbCell_memWrite1]
  by_cases hhigh : a = off
  · rw [if_neg (by omega), if_pos hhigh, if_pos hhigh]
  · rw [if_neg hhigh, if_neg hhigh]

theorem wf_memWrite2 (rb : Memory) (off : Nat) (v : BitVec 16) (h : rb.wf .rb) : (memWrite2 rb off v).wf .rb :=
  wf_memWrite1 _ _ _ (wf_memWrite1 rb off _ h)

theorem offsets_memWrite2 (rb : Memory) (off : Nat) (v : BitVec 16) (ho : off + 1 < 10) (h : ∀ c ∈ rb, c.1 < 10) :
    ∀ c ∈ memWrite2 rb off v, c.1 < 10 :=
  offsets_memWrite1 _ _ _ ho (offsets_memWrite1 rb off _ (by omega) h)

/-- Settles O33: a two-byte write is two one-byte writes at different offsets, and each keeps RB's form. -/
theorem memWriteIsBigEndianAndLocal : Obligations.MemWriteIsBigEndianAndLocal :=
  fun rb off hwf hoff =>
    ⟨fun v ho => ⟨fun a => rbCell_memWrite1 rb off a v, wf_memWrite1 rb off v hwf, offsets_memWrite1 rb off v ho hoff⟩,
      fun v ho => ⟨fun a => rbCell_memWrite2 rb off a v, wf_memWrite2 rb off v hwf, offsets_memWrite2 rb off v ho hoff⟩⟩

end Sys2Proof.Machine
end

section
/-! SUPPORT. The encoder and the decoder undo each other, on outbound frames and on deliveries, and the type table is
`classify` read backwards (30_encoding). -/

namespace Sys2Proof.Machine

/-! ### The outbound frames -/

theorem highByte_append (h l : Byte) : highByte (h ++ l) = h := BitVec.extractLsb'_append_eq_left

theorem lowByte_append (h l : Byte) : lowByte (h ++ l) = l := BitVec.extractLsb'_append_eq_right

@[simp] theorem decodeAck_hbAck : decodeAck hbAck = .ok .ackHeartbeat := if_pos rfl

/-- Ten bytes in the ACK_LOGIN pattern stand or fall by their checksum bytes (30_encoding R60). -/
theorem decodeAck_pattern (h l ch cl : Byte) :
    decodeAck [0x78, 0x78, 0x05, 0x01, h, l, ch, cl, 0x0D, 0x0A] =
      if ch ++ cl = crcOf [0x05, 0x01, h, l] then .ok (.ackLogin h l) else .error .wrongChecksum := by
  simp [decodeAck, hbAck]

@[simp] theorem decodeAck_ackLoginBytes (h l : Byte) : decodeAck (ackLoginBytes h l) = .ok (.ackLogin h l) := by
  rw [ackLoginBytes, decodeAck_pattern, if_pos (highByte_append_lowByte _)]

/-- Ten bytes in the ACK_LOGIN pattern whose checksum bytes are the `crc16` of the bytes at offsets 2 to 5 are the
encoding of their serial. -/
theorem ackLoginBytes_of_checksum {h l ch cl : Byte} (hcrc : ch ++ cl = crcOf [0x05, 0x01, h, l]) :
    ackLoginBytes h l = [0x78, 0x78, 0x05, 0x01, h, l, ch, cl, 0x0D, 0x0A] := by
  rw [ackLoginBytes, ← hcrc, highByte_append, lowByte_append]

/-- Everything the outbound decoder accepts. -/
theorem decodeAck_ok {bytes : List Byte} {i : Instr} (h : decodeAck bytes = .ok i) :
    (bytes = hbAck ∧ i = .ackHeartbeat) ∨ ∃ sh sl, bytes = ackLoginBytes sh sl ∧ i = .ackLogin sh sl := by
  unfold decodeAck at h
  split at h
  case isTrue hlit =>
    cases h
    exact .inl ⟨hlit, rfl⟩
  case isFalse =>
    split at h
    case h_2 => cases h
    case h_1 m0 m1 n t sh sl ch cl e0 e1 _ =>
      split at h
      case isFalse => cases h
      case isTrue hpattern =>
        obtain ⟨rfl, rfl, rfl, rfl, rfl, rfl⟩ := hpattern
        split at h
        case isFalse => cases h
        case isTrue hcrc =>
          cases h
          exact .inr ⟨sh, sl, (ackLoginBytes_of_checksum hcrc).symm, rfl⟩

/-- Settles O42, by the two frames the decoder accepts. -/
theorem acceptedResponsesAreExactEncodings : Obligations.AcceptedResponsesAreExactEncodings := by
  intro bytes i h
  obtain ⟨rfl, rfl⟩ | ⟨sh, sl, rfl, rfl⟩ := decodeAck_ok h
  · rfl
  · rfl

/-! ### The deliveries -/

/-- The row a delivery decodes to keeps every byte and the time sample (30_encoding R51, R63). -/
theorem encode_decodeFrame (buf : List Byte) (now : Nat) :
    encode (decodeFrame buf now) = .event (.deliver buf now) := by
  by_cases hlen : buf.length < 4
  · rw [decodeFrame_short hlen, encode]
  · obtain ⟨hdr, t, rest, rfl⟩ := frame_of_length (by omega : 4 ≤ buf.length)
    obtain rfl | rfl | rfl | rfl | rfl | rfl | h := protocol_cases t
    iterate 6 rfl
    rw [decodeFrame_unknown hdr rest now h, encode]

/-- Settles O41, by the decoder's well-formedness and its inverse on deliveries. -/
theorem everyDeliveryDecodesAndEncodesBack : Obligations.EveryDeliveryDecodesAndEncodesBack :=
  fun buf now => ⟨decodeFrame_wf buf now, encode_decodeFrame buf now⟩

/-- Settles O40, by the rows: a frame row is read back by its length and protocol number, SHORT and UNKNOWN by their
row's condition, an outbound row by its bytes, and an event is itself. -/
theorem decodeOfEncodeIsTheInstruction : Obligations.DecodeOfEncodeIsTheInstruction := by
  intro i hwf
  cases i with
  | short buf now => exact congrArg Except.ok (decodeFrame_short (of_decide_eq_true hwf) now)
  | login hdr rest now => exact congrArg Except.ok (decodeFrame_login hdr rest now)
  | gps hdr rest now => exact congrArg Except.ok (decodeFrame_gps hdr rest now)
  | status hdr rest now => exact congrArg Except.ok (decodeFrame_status hdr rest now)
  | alarm hdr rest now => exact congrArg Except.ok (decodeFrame_alarm hdr rest now)
  | heartbeat hdr rest now => exact congrArg Except.ok (decodeFrame_heartbeat hdr rest now)
  | gpsExt22 hdr rest now => exact congrArg Except.ok (decodeFrame_gpsExt22 hdr rest now)
  | unknown hdr t rest now =>
    have hrow : isRowProtocol t = false := by simpa [Instr.wf] using hwf
    exact congrArg Except.ok (decodeFrame_unknown hdr rest now hrow)
  | ackLogin h l => exact decodeAck_ackLoginBytes h l
  | ackHeartbeat => exact decodeAck_hbAck
  | deliver buf now => rfl
  | crcUpd b => rfl
  | crcClr => rfl
  | reset => rfl

/-! ### The type table -/

/-- `classify` read backwards: the protocol numbers of each message type with a row (30_encoding R52, R53). -/
theorem classify_eq_iff (ext22 : Bool) (t : Byte) :
    (classify ext22 t = .login ↔ t = protoLogin) ∧
    (classify ext22 t = .gps ↔ t = protoGps ∨ t = protoGpsExt22 ∧ ext22 = true) ∧
    (classify ext22 t = .status ↔ t = protoStatus) ∧ (classify ext22 t = .alarm ↔ t = protoAlarm) ∧
    (classify ext22 t = .heartbeat ↔ t = protoHeartbeat) := by
  obtain rfl | rfl | rfl | rfl | rfl | rfl | h := protocol_cases t
  iterate 6 cases ext22 <;> decide
  obtain ⟨h1, h2, h3, h4, h5, h6⟩ := ne_of_isRowProtocol_false h
  simp [classify_unknown ext22 h, h1, h2, h3, h4, h5, h6]

/-- No two message types share a code (10_state R15). -/
theorem MsgType.code_eq_code_iff (m m' : MsgType) : m.code = m'.code ↔ m = m' := by
  cases m <;> cases m' <;> decide

/-- The codes 6 and 7 stand for no message type (10_state R15). -/
theorem MsgType.code_lt (m : MsgType) : m.code < 6 := by cases m <;> decide

/-- The code 3 stands for no payload kind (10_state R16). -/
theorem PayloadKind.code_lt (k : PayloadKind) : k.code < 3 := by cases k <;> decide

/-- The codes 2 and 3 stand for no cause (60_exceptions R125). -/
theorem ErrCause.code_lt (k : ErrCause) : k.code < 2 := by cases k <;> decide

/-- Settles O39: a code stands for one type, and `classify` gives that type for its row's protocol numbers only. -/
theorem typeTableMatchesAllEightBits : Obligations.TypeTableMatchesAllEightBits := by
  intro ext22 p
  obtain ⟨hlogin, hgps, hstatus, halarm, hheartbeat⟩ := classify_eq_iff ext22 p
  have hcode := MsgType.code_eq_code_iff (classify ext22 p)
  have hlt := (classify ext22 p).code_lt
  refine ⟨(hcode .login).trans hlogin, (hcode .gps).trans hgps, (hcode .status).trans hstatus,
    (hcode .alarm).trans halarm, (hcode .heartbeat).trans hheartbeat, by bv_omega, by bv_omega, rfl, rfl,
    fun k => ?_, rfl, fun k => ?_⟩
  · have := k.code_lt
    bv_omega
  · have := k.code_lt
    constructor <;> bv_omega

end Sys2Proof.Machine
end

section
/-! SUPPORT. The digits of a byte, in the IMEI register (30_encoding R57) and in `hexlower` (R67). -/

namespace Sys2Proof.Machine

/-! ### The IMEI register -/

/-- The nibbles above the last byte of a field are those of the field without it. -/
theorem nibble_append_of_le {w k : Nat} (x : BitVec w) (b : Byte) (h : 8 ≤ k) :
    (x ++ b).extractLsb' k 4 = x.extractLsb' (k - 8) 4 := BitVec.extractLsb'_append_eq_of_le h

/-- The two nibbles of the last byte of a field are the byte's. -/
theorem nibble_append_of_le_four {w k : Nat} (x : BitVec w) (b : Byte) (h : k ≤ 4) :
    (x ++ b).extractLsb' k 4 = b.extractLsb' k 4 := BitVec.extractLsb'_append_eq_of_add_le (by omega)

/-- Settles O35: the digits of byte j stand above the 7 - j bytes after it. -/
theorem imeiDigitsAreNibblesHighFirst : Obligations.ImeiDigitsAreNibblesHighFirst := by
  intro b0 b1 b2 b3 b4 b5 b6 b7 j hj
  simp only [imeiDigit]
  interval_cases j <;> constructor <;> simp [nibble_append_of_le, nibble_append_of_le_four]

/-! ### `hexlower` -/

/-- The sixteen digits (30_encoding R67), a finite check. -/
theorem hexDigit_eq : ∀ n : BitVec 4, some (hexDigit n) = ['0', '1', '2', '3', '4', '5', '6', '7', '8', '9', 'a', 'b',
    'c', 'd', 'e', 'f'][n.toNat]? := by decide

@[simp] theorem hexlower_nil : hexlower [] = [] := rfl

@[simp] theorem hexlower_cons (b : Byte) (bs : List Byte) :
    hexlower (b :: bs) = hexDigit (b.extractLsb' 4 4) :: hexDigit (b.extractLsb' 0 4) :: hexlower bs := rfl

theorem hexlower_length (bs : List Byte) : (hexlower bs).length = 2 * bs.length := by
  induction bs with
  | nil => rfl
  | cons b bs ih => simp [ih, Nat.mul_add]

/-- The characters at 2i and 2i + 1 are those of byte i. -/
theorem hexlower_getElem? (bs : List Byte) (i : Nat) (h : i < bs.length) :
    (hexlower bs)[2 * i]? = some (hexDigit (bs[i].extractLsb' 4 4)) ∧
      (hexlower bs)[2 * i + 1]? = some (hexDigit (bs[i].extractLsb' 0 4)) := by
  induction bs generalizing i with
  | nil => exact absurd h (Nat.not_lt_zero i)
  | cons b bs ih =>
    cases i with
    | zero => exact ⟨rfl, rfl⟩
    | succ i => exact ih i (Nat.lt_of_succ_lt_succ h)

/-- Settles O37, by the digit table and induction on the bytes. -/
theorem hexlowerRendersTwoDigitsPerByte : Obligations.HexlowerRendersTwoDigitsPerByte :=
  ⟨hexDigit_eq, fun bs => ⟨hexlower_length bs, hexlower_getElem? bs⟩, fun _ => String.toList_ofList⟩

end Sys2Proof.Machine
end

section
/-! SUPPORT. The bytes of a delivery that its record and its response depend on (30_encoding R51), and 0x22 frames
(R53). -/

namespace Sys2Proof.Machine

/-! ### The type of a delivery -/

/-- The message type of a delivery, by its byte 3 (30_encoding R52, 41_frame_parser R81). -/
def deliveryType (ext22 : Bool) (buf : List Byte) : MsgType := (buf[3]?).elim .unknown (classify ext22)

theorem deliveryType_eq_login {ext22 : Bool} {buf : List Byte} (h : deliveryType ext22 buf = .login) :
    buf[3]? = some protoLogin := by
  cases ht : buf[3]? with
  | none => rw [deliveryType, ht] at h; cases h
  | some t =>
    rw [deliveryType, ht] at h
    obtain ⟨hlogin, -⟩ := classify_eq_iff ext22 t
    rw [hlogin.1 h]

theorem deliveryType_eq_gps {ext22 : Bool} {buf : List Byte} (h : deliveryType ext22 buf = .gps) :
    buf[3]? = some protoGps ∨ buf[3]? = some protoGpsExt22 ∧ ext22 = true := by
  cases ht : buf[3]? with
  | none => rw [deliveryType, ht] at h; cases h
  | some t =>
    rw [deliveryType, ht] at h
    obtain ⟨-, hgps, -⟩ := classify_eq_iff ext22 t
    simpa using hgps.1 h

/-- `decode` of a loaded delivery is the decoding of its message type. -/
theorem decodeRecord_load (ext22 : Bool) (now : Nat) (buf : List Byte) :
    decodeRecord ext22 now (Memory.ofBytes 0 buf) buf.length =
      recordOfType (deliveryType ext22 buf) now (Memory.ofBytes 0 buf) buf.length := by
  by_cases hlen : buf.length < 4
  · rw [decodeRecord_short ext22 now hlen, deliveryType, List.getElem?_eq_none (by omega), Option.elim_none]
  · obtain ⟨hdr, t, rest, rfl⟩ := frame_of_length (by omega : 4 ≤ buf.length)
    exact decodeRecord_frame ext22 now hdr t rest

/-! ### The examined bytes -/

theorem imeiField_congr {buf buf' : List Byte} (h : ∀ i, 4 ≤ i → i ≤ 11 → buf[i]? = buf'[i]?) :
    imeiField buf = imeiField buf' := by
  simp only [imeiField, List.getD_eq_getElem?_getD, h, Nat.reduceLeDiff, le_refl]

theorem gpsFields_congr {buf buf' : List Byte} (h : ∀ i, 4 ≤ i → i ≤ 20 → buf[i]? = buf'[i]?) :
    gpsFields buf = gpsFields buf' := by
  simp only [gpsFields, List.getD_eq_getElem?_getD, h, Nat.reduceLeDiff, le_refl]

/-- The record of a loaded delivery depends on its length, for Login on the IMEI field and for Gps on the Gps fields. -/
theorem recordOfType_load_congr {m : MsgType} {buf buf' : List Byte} (now : Nat) (hlen : buf.length = buf'.length)
    (himei : m = .login → imeiField buf = imeiField buf') (hgps : m = .gps → gpsFields buf = gpsFields buf') :
    recordOfType m now (Memory.ofBytes 0 buf) buf.length = recordOfType m now (Memory.ofBytes 0 buf') buf'.length := by
  cases m with
  | login =>
    simp only [recordOfType, loginRecord_load]
    rw [hlen, himei rfl]
  | gps =>
    simp only [recordOfType, gpsRecord_load]
    rw [hlen, hgps rfl]
  | unknown | status | alarm | heartbeat => rfl

/-- The response to a loaded delivery depends on its type, and for Login on its length and the two serial bytes. -/
theorem buildResponse_load_congr {m : MsgType} {buf buf' : List Byte} (hlen : buf.length = buf'.length)
    (hserial : m = .login → 6 ≤ buf.length → buf[buf.length - 6]? = buf'[buf.length - 6]? ∧
      buf[buf.length - 5]? = buf'[buf.length - 5]?) :
    buildResponse m (Memory.ofBytes 0 buf) buf.length = buildResponse m (Memory.ofBytes 0 buf') buf'.length := by
  cases m with
  | login =>
    simp only [buildResponse, respondLogin_load]
    rw [← hlen]
    by_cases h : 6 ≤ buf.length
    · obtain ⟨hhigh, hlow⟩ := hserial rfl h
      simp only [List.getD_eq_getElem?_getD, hhigh, hlow]
    · simp only [if_neg h]
  | unknown | gps | status | alarm | heartbeat => rfl

theorem exec_deliver_of_decodes {s : State} {buf : List Byte} {now : Nat} {r : Record} {p : RespBuf}
    (fits : deliveryFits s.cfg buf.length now = true) (h : Decodes s.cfg.ext22 buf now r p) :
    exec (.deliver buf now) s = .next (afterDelivery s buf r p) :=
  congrArg toOutcome (delivery_eq fits h.record h.response)

theorem deliveryFits_of_le {c : Config} {len now : Nat} (hlen : len ≤ c.maxLen) (hnow : now < 2 ^ c.timeW) :
    deliveryFits c len now = true := by
  simp [deliveryFits, hlen, hnow]

/-- Settles O30: equal examined bytes give equal types, and for the type equal fields and equal serial bytes; so both
deliveries decode to one record and are answered by one response. -/
theorem onlyExaminedBytesBearOnResults : Obligations.OnlyExaminedBytesBearOnResults := by
  intro s buf buf' now hmax hnow hlen htype hlogin hgps
  have htypes : deliveryType s.cfg.ext22 buf' = deliveryType s.cfg.ext22 buf := by
    rw [deliveryType, deliveryType, htype]
  have hrecord : decodeRecord s.cfg.ext22 now (Memory.ofBytes 0 buf) buf.length =
      decodeRecord s.cfg.ext22 now (Memory.ofBytes 0 buf') buf'.length := by
    rw [decodeRecord_load, decodeRecord_load, htypes]
    exact recordOfType_load_congr now hlen (fun h => imeiField_congr (hlogin (deliveryType_eq_login h)).1)
      (fun h => gpsFields_congr (hgps (deliveryType_eq_gps h)))
  obtain ⟨r, hr⟩ := decodeRecord_load_ok s.cfg.ext22 now buf
  obtain ⟨p, -, hp, -⟩ := buildResponse_load_holds r.mtype buf
  have hresponse : buildResponse r.mtype (Memory.ofBytes 0 buf) buf.length =
      buildResponse r.mtype (Memory.ofBytes 0 buf') buf'.length := by
    rw [decodeRecord_load] at hr
    rw [mtype_of_recordOfType hr]
    exact buildResponse_load_congr hlen fun h => (hlogin (deliveryType_eq_login h)).2
  have fits : deliveryFits s.cfg buf.length now = true := deliveryFits_of_le hmax hnow
  refine ⟨_, _, exec_deliver_of_decodes fits ⟨hr, hp⟩,
    exec_deliver_of_decodes (hlen ▸ fits) ⟨hrecord.symm.trans hr, hresponse.symm.trans hp⟩, ?_⟩
  simp

/-! ### GPS_EXT22 -/

theorem typedDelivery_delivered {m : MsgType} {s : State} {buf resp : List Byte} {now : Nat} {r : Record} {p : RespBuf}
    (fits : deliveryFits s.cfg buf.length now = true)
    (hr : recordOfType m now (Memory.ofBytes 0 buf) buf.length = .ok r)
    (hp : buildResponse m (Memory.ofBytes 0 buf) buf.length = .ok p) (holds : p.Holds resp) :
    ∃ t, toOutcome (typedDelivery m buf now s) = .next t ∧ Delivered s t buf r r.payload resp :=
  ⟨_, congrArg toOutcome (delivery_eq fits hr hp), delivered_afterDelivery fits holds⟩

/-- The Gps record does not depend on the protocol number (41_frame_parser R92). -/
theorem gpsRecord_frame_eq (hdr : Header) (t t' : Byte) (rest : List Byte) (now : Nat) :
    recordOfType .gps now (Memory.ofBytes 0 (frameBytes hdr t rest)) (frameBytes hdr t rest).length =
      recordOfType .gps now (Memory.ofBytes 0 (frameBytes hdr t' rest)) (frameBytes hdr t' rest).length :=
  recordOfType_load_congr now rfl (fun h => nomatch h) fun _ => rfl

/-- Settles O20: with EXT22 = 1 both rows are a Gps delivery, whose record is that of the bytes from offset 4 on; with
EXT22 = 0 the row is an Unknown delivery. -/
theorem gpsExt22IsGpsOrUnknownByParameter : Obligations.GpsExt22IsGpsOrUnknownByParameter := by
  intro s hdr rest now hmax hnow
  have fits : deliveryFits s.cfg (rest.length + 4) now = true := deliveryFits_of_le hmax hnow
  refine ⟨fun hext => ?_, fun hext => ?_⟩
  · obtain ⟨r, hr⟩ : ∃ r, recordOfType .gps now (Memory.ofBytes 0 (frameBytes hdr protoGps rest))
        (frameBytes hdr protoGps rest).length = .ok r := ⟨_, gpsRecord_load now _⟩
    obtain ⟨u, hu, hud⟩ := typedDelivery_delivered (buf := frameBytes hdr protoGps rest) fits hr rfl noResponse_holds
    obtain ⟨t, ht, htd⟩ := typedDelivery_delivered (buf := frameBytes hdr protoGpsExt22 rest) fits
      ((gpsRecord_frame_eq hdr protoGpsExt22 protoGps rest now).trans hr) rfl noResponse_holds
    refine ⟨t, u, r.payload, ?_, hu, hud.record ▸ htd, hud.record ▸ hud⟩
    rw [exec_gpsExt22, hext]
    exact ht
  · rw [exec_gpsExt22, hext]
    exact typedDelivery_delivered (m := .unknown) fits rfl rfl noResponse_holds

end Sys2Proof.Machine
end

section
/-! SUPPORT. The Checksum Engine (40_crc): a round bit by bit and its linearity, from them the identities of R77 and
the bit-serial form of R78; then the events of the CRC port (R74 to R76). -/

namespace Sys2Proof

/-! ### One round -/

/-- The polynomial has the bits 0, 5 and 12 (40_crc R71), a finite check. -/
theorem crcPoly_getLsbD : ∀ i, i < 16 → crcPoly.getLsbD i = decide (i = 0 ∨ i = 5 ∨ i = 12) := by decide

/-- A step of the bit-serial form as one XOR: the polynomial enters when the bit that leaves differs from the input. -/
theorem crcSerialStep_eq (c : CrcWord) (d : Bool) :
    crcSerialStep c d = c <<< 1 ^^^ bif (c.getLsbD 15).xor d then crcPoly else 0#16 := by
  rw [crcSerialStep]
  cases (c.getLsbD 15).xor d with
  | false => exact BitVec.xor_zero.symm
  | true => rfl

/-- A round is a step of the bit-serial form for the input bit 0. -/
theorem crcRound_eq_crcSerialStep (c : CrcWord) : crcRound c = crcSerialStep c false := by
  rw [crcRound, crcSerialStep, Bool.xor_false]

theorem crcRound_eq (c : CrcWord) : crcRound c = c <<< 1 ^^^ bif c.getLsbD 15 then crcPoly else 0#16 := by
  rw [crcRound_eq_crcSerialStep, crcSerialStep_eq, Bool.xor_false]

/-- Settles O3: the shift moves the bits up, and the bit that leaves selects the polynomial or nothing. -/
theorem crcRoundShiftsAndXorsPolynomial : Obligations.CrcRoundShiftsAndXorsPolynomial := by
  intro c i hi
  have hshift : (c <<< 1).getLsbD i = (decide (0 < i) && c.getLsbD (i - 1)) := by
    simp only [BitVec.getLsbD_shiftLeft, hi, decide_true, Bool.true_and, Nat.lt_one_iff, Nat.pos_iff_ne_zero, ne_eq,
      decide_not]
  rw [crcRound_eq, BitVec.getLsbD_xor, hshift]
  cases c.getLsbD 15 with
  | false => simp
  | true => rw [cond_true, crcPoly_getLsbD i hi, Bool.true_and]

/-- A round is linear over XOR: the bit that leaves a sum is the sum of the bits that leave. -/
theorem crcRound_xor (a b : CrcWord) : crcRound (a ^^^ b) = crcRound a ^^^ crcRound b := by
  have hselect (p q : Bool) : (bif p.xor q then crcPoly else 0#16) =
      (bif p then crcPoly else 0#16) ^^^ (bif q then crcPoly else 0#16) := by
    cases p <;> cases q <;> rfl
  rw [crcRound_eq, crcRound_eq, crcRound_eq, BitVec.getLsbD_xor, hselect, BitVec.shiftLeft_xor_distrib]
  ac_rfl

/-- A round whose bit 15 is 0 only shifts. -/
theorem crcRound_of_lt {c : CrcWord} (h : 2 * c.toNat < 2 ^ 16) : crcRound c = c <<< 1 := by
  have htop : c.getLsbD 15 = false := BitVec.msb_eq_false_iff_two_mul_lt.2 h
  rw [crcRound_eq, htop, cond_false, BitVec.xor_zero]

/-! ### Rounds -/

theorem crcRounds_eq_iterate (n : Nat) (c : CrcWord) : crcRounds n c = crcRound^[n] c := by
  induction n generalizing c with
  | zero => rfl
  | succ n ih => rw [crcRounds_succ, ih, Function.iterate_succ_apply]

theorem crcRounds_xor (n : Nat) (a b : CrcWord) : crcRounds n (a ^^^ b) = crcRounds n a ^^^ crcRounds n b := by
  induction n generalizing a b with
  | zero => rfl
  | succ n ih => rw [crcRounds_succ, crcRound_xor, ih, crcRounds_succ, crcRounds_succ]

/-- While the bits that leave are 0 the rounds only shift. -/
theorem crcRounds_of_lt {n : Nat} {c : CrcWord} (h : c.toNat * 2 ^ n < 2 ^ 16) : crcRounds n c = c <<< n := by
  induction n generalizing c with
  | zero => rw [crcRounds_zero, BitVec.shiftLeft_zero]
  | succ n ih =>
    have hdouble : 2 * c.toNat * 2 ^ n < 2 ^ 16 := by rwa [Nat.mul_comm 2, Nat.mul_assoc, ← Nat.pow_succ']
    have hround : 2 * c.toNat < 2 ^ 16 := Nat.lt_of_le_of_lt (Nat.le_mul_of_pos_right _ (Nat.two_pow_pos n)) hdouble
    have hshift : (c <<< 1).toNat = 2 * c.toNat := by
      rw [BitVec.toNat_shiftLeft, Nat.shiftLeft_eq, Nat.pow_one, Nat.mul_comm, Nat.mod_eq_of_lt hround]
    rw [crcRounds_succ, crcRound_of_lt hround, ih (hshift ▸ hdouble), ← BitVec.shiftLeft_add, Nat.add_comm]

/-- Settles O4: the rounds are the iterates of one round, and the byte stands in the high half. -/
theorem crcUpdateIsEightRoundsAfterXor : Obligations.CrcUpdateIsEightRoundsAfterXor := by
  intro c b
  rw [crcUpdate, append_zero_eq_shift, crcRounds_eq_iterate]

/-! ### The bit-serial form (R78) -/

/-- A byte in the high half, moved up by one bit. -/
theorem append_zero_shiftLeft_one (b : Byte) : (b ++ (0 : BitVec 8)) <<< 1 = b <<< 1 ++ (0 : BitVec 8) := by
  apply BitVec.eq_of_toNat_eq
  rw [BitVec.toNat_shiftLeft, Machine.toNat_append_byte, Machine.toNat_append_byte, BitVec.toNat_shiftLeft,
    Nat.shiftLeft_eq, Nat.shiftLeft_eq]
  simp only [BitVec.ofNat_eq_ofNat, BitVec.toNat_ofNat]
  omega

/-- A round spends the top bit of a byte in the high half as the input bit of the bit-serial form, and moves the
byte's other bits up. -/
theorem crcRound_xor_byte (c : CrcWord) (b : Byte) :
    crcRound (c ^^^ (b ++ (0 : BitVec 8))) = crcSerialStep c (b.getLsbD 7) ^^^ (b <<< 1 ++ (0 : BitVec 8)) := by
  have htop : (c ^^^ (b ++ (0 : BitVec 8))).getLsbD 15 = (c.getLsbD 15).xor (b.getLsbD 7) := by
    rw [BitVec.getLsbD_xor, BitVec.getLsbD_append, if_neg (by decide)]
  rw [crcRound_eq, crcSerialStep_eq, htop, BitVec.shiftLeft_xor_distrib, append_zero_shiftLeft_one]
  ac_rfl

/-- Settles O5: round by round `crc_update` spends the bits of the byte from the top, and after eight none is left. -/
theorem crcUpdateEqualsBitSerialForm : Obligations.CrcUpdateEqualsBitSerialForm := by
  intro c b
  simp only [crcUpdate, crcRounds_succ, crcRounds_zero, crcRound_xor_byte]
  simp [crcSerialUpdate]

/-! ### The identities of R77 -/

theorem crcOf_append (m n : List Byte) : crcOf (m ++ n) = n.foldl crcUpdate (crcOf m) := List.foldl_append

/-- Settles O7: a zero byte leaves a zero register, and the CRC is a fold. -/
theorem crcChainsAndIgnoresLeadingZeros : Obligations.CrcChainsAndIgnoresLeadingZeros :=
  fun m n => ⟨congrArg (m.foldl crcUpdate) (by decide : crcUpdate crcInit 0x00 = crcInit), crcOf_append m n⟩

/-- The high byte of the register cancels, and the low byte moves into its place. -/
theorem crcUpdate_append_high (h l : Byte) : crcUpdate (h ++ l) h = l ++ (0 : BitVec 8) := by
  have hcancel : (h ++ l) ^^^ (h ++ (0 : BitVec 8)) = (0 : BitVec 8) ++ l := by
    rw [BitVec.xor_append, BitVec.xor_self]
    exact congrArg _ BitVec.xor_zero
  have hlow : ((0 : BitVec 8) ++ l).toNat = l.toNat := by simp [Machine.toNat_append_byte]
  have hlt : l.toNat * 2 ^ 8 < 2 ^ 16 := Nat.mul_lt_mul_of_pos_right l.isLt (Nat.two_pow_pos 8)
  rw [crcUpdate, hcancel, crcRounds_of_lt (by rwa [hlow])]
  apply BitVec.eq_of_toNat_eq
  rw [BitVec.toNat_shiftLeft, hlow, Nat.shiftLeft_eq, Nat.mod_eq_of_lt hlt, Machine.toNat_append_byte]
  exact (Nat.add_zero _).symm

/-- A byte that stands alone in the high half cancels. -/
theorem crcUpdate_append_zero (l : Byte) : crcUpdate (l ++ (0 : BitVec 8)) l = 0x0000 := by
  rw [crcUpdate, BitVec.xor_self]
  rfl

/-- Settles O8: the first checksum byte cancels the high half of the register, the second the low half. -/
theorem crcOfMessageWithItsChecksumIsZero : Obligations.CrcOfMessageWithItsChecksumIsZero := by
  intro m
  have hhigh : crcUpdate (crcOf m) (highByte (crcOf m)) = lowByte (crcOf m) ++ (0 : BitVec 8) := by
    have h := crcUpdate_append_high (highByte (crcOf m)) (lowByte (crcOf m))
    rwa [highByte_append_lowByte] at h
  rw [crcOf_append, List.foldl_cons, List.foldl_cons, List.foldl_nil, hhigh, crcUpdate_append_zero]

/-- An update is linear over XOR in the register and the byte together. -/
theorem crcUpdate_xor (c d : CrcWord) (x y : Byte) :
    crcUpdate (c ^^^ d) (x ^^^ y) = crcUpdate c x ^^^ crcUpdate d y := by
  have hbyte : (x ^^^ y) ++ (0 : BitVec 8) = (x ++ (0 : BitVec 8)) ^^^ (y ++ (0 : BitVec 8)) := by
    rw [BitVec.xor_append, BitVec.xor_self]; rfl
  rw [crcUpdate, crcUpdate, crcUpdate, ← crcRounds_xor, hbyte]
  ac_rfl

theorem foldl_crcUpdate_xor {m n : List Byte} (h : m.length = n.length) (c d : CrcWord) :
    (List.zipWith (fun x y => x ^^^ y) m n).foldl crcUpdate (c ^^^ d) =
      m.foldl crcUpdate c ^^^ n.foldl crcUpdate d := by
  induction m generalizing n c d with
  | nil => cases n with
    | nil => rfl
    | cons y ys => cases h
  | cons x xs ih => cases n with
    | nil => cases h
    | cons y ys =>
      rw [List.zipWith_cons_cons, List.foldl_cons, crcUpdate_xor, ih (Nat.succ.inj h), List.foldl_cons, List.foldl_cons]

/-- Settles O9: an update is linear, and the initial value is the sum of itself with itself. -/
theorem crcIsLinearOverXor : Obligations.CrcIsLinearOverXor :=
  fun _ _ h => foldl_crcUpdate_xor h crcInit crcInit

/-! ### Ranges (R73) -/

theorem slice_self (bytes : List Byte) (s : Nat) : slice bytes s s = [] := by
  rw [slice, Nat.sub_self, List.take_zero]

theorem slice_succ {bytes : List Byte} {s e : Nat} (hs : s ≤ e) (he : e < bytes.length) :
    slice bytes s (e + 1) = slice bytes s e ++ [bytes[e]] := by
  have hlt : e - s < (bytes.drop s).length := by rw [List.length_drop]; omega
  have hget : (bytes.drop s)[e - s] = bytes[e] := by simp [Nat.add_sub_cancel' hs]
  rw [slice, slice, Nat.succ_sub hs, ← List.take_append_getElem hlt, hget]

/-- Settles O6: a range one byte longer is a sequence one byte longer, which the CRC folds in last. -/
theorem crcOfRangeGrowsByteByByte : Obligations.CrcOfRangeGrowsByteByByte := by
  refine fun bytes => ⟨fun s hs => ?_, fun s e hs he => ?_, fun s e h => if_neg h⟩
  · rw [crc16_of_le le_rfl hs, slice_self, crcOf_nil]
  · refine ⟨_, crc16_of_le hs he.le, ?_⟩
    rw [crc16_of_le (by omega) he, slice_succ hs he, crcOf_append]
    rfl

end Sys2Proof

namespace Sys2Proof.Machine

/-! ### The events of the CRC port (R74 to R76) -/

theorem sameButCrc_setCrc (s : State) (v : CrcWord) : SameButCrc s (s.setCrc v) :=
  ⟨rfl, fun _ => rfl, rfl, rfl, rfl, fun _ => rfl, rfl, rfl⟩

/-- Settles O10: the event is one write of `crc`, of `CRC_INIT`. -/
theorem crcClearWritesZeroOnly : Obligations.CrcClearWritesZeroOnly :=
  fun s => ⟨_, rfl, rfl, sameButCrc_setCrc s crcInit, rfl⟩

/-- Settles O11: the event is one write of `crc`, of the update of its value. -/
theorem crcUpdateFoldsOneByteOnly : Obligations.CrcUpdateFoldsOneByteOnly :=
  fun s b => ⟨_, rfl, rfl, sameButCrc_setCrc s (crcUpdate s.crc b), rfl⟩

/-- Pending updates leave their fold in `crc` and touch the queue and the observations besides. -/
theorem run_crcUpds {s : State} {bytes : List Byte} {later : List PortEvent}
    (h : s.pending = bytes.map .crcUpd ++ later) :
    ∃ o, run bytes.length s =
      .next { s with crc := bytes.foldl crcUpdate s.crc, pending := later, observed := o } := by
  induction bytes generalizing s with
  | nil =>
    obtain rfl : s.pending = later := h
    exact ⟨s.observed, rfl⟩
  | cons b bs ih =>
    obtain ⟨o, ho⟩ := ih (s := State.setCrc { s with pending := bs.map .crcUpd ++ later } (crcUpdate s.crc b)) rfl
    exact ⟨o, (run_succ bs.length (step_cons h)).trans ho⟩

/-- Settles O12: after the clear the updates fold the bytes of the range from `CRC_INIT`. -/
theorem crcRangeEventsComputeCrc16 : Obligations.CrcRangeEventsComputeCrc16 := by
  refine fun bytes lo hi => ⟨fun hlo hhi => ⟨_, crcRangeEvents_of_le hlo hhi, fun s later hp => ?_⟩, fun h => if_neg h⟩
  obtain ⟨o, ho⟩ := run_crcUpds (bytes := slice bytes lo hi) (later := later)
    (s := State.setCrc { s with pending := (slice bytes lo hi).map .crcUpd ++ later } crcInit) rfl
  rw [slice_length hhi] at ho
  exact ⟨_, (run_succ (hi - lo) (step_cons hp)).trans ho, (crc16_of_le hlo hhi).symm, rfl, rfl, rfl, rfl, rfl, rfl, rfl,
    rfl⟩

end Sys2Proof.Machine
end

section
/-! SUPPORT. The IMEI flags and the IMEI string (41_frame_parser R84), and the coordinates in degrees (R87). -/

namespace Sys2Proof.Machine

/-! ### The IMEI flags -/

/-- The index of the first non-zero digit, at most 16, fits the five bits of the register. -/
theorem imeiLz_toNat (bcd : BitVec 64) :
    (imeiLz bcd).toNat = (List.range 16).findIdx (fun k => imeiDigit bcd k != 0) := by
  have hle : (List.range 16).findIdx (fun k => imeiDigit bcd k != 0) ≤ 16 := List.findIdx_le_length
  exact Nat.mod_eq_of_lt (hle.trans_lt (by decide))

theorem imeiDigit_of_lt_imeiLz {bcd : BitVec 64} {k : Nat} (h : k < (imeiLz bcd).toNat) : imeiDigit bcd k = 0 := by
  rw [imeiLz_toNat] at h
  simpa using List.not_of_lt_findIdx h

theorem imeiDigit_imeiLz_ne {bcd : BitVec 64} (h : (imeiLz bcd).toNat < 16) :
    imeiDigit bcd (imeiLz bcd).toNat ≠ 0 := by
  rw [imeiLz_toNat] at h ⊢
  have hfound := List.findIdx_getElem (xs := List.range 16) (p := fun k => imeiDigit bcd k != 0) (w := h)
  simpa using hfound

theorem imeiNondec_iff (bcd : BitVec 64) : imeiNondec bcd = true ↔ ∃ k, k < 16 ∧ 9 < (imeiDigit bcd k).toNat := by
  simp [imeiNondec, BitVec.lt_def]

/-- Settles O34: `imei_lz` is the index of the first digit that is not 0, and `imei_nondec` a search for one above 9. -/
theorem imeiFlagsCountLeadingZerosAndNondecimals : Obligations.ImeiFlagsCountLeadingZerosAndNondecimals :=
  fun bcd => ⟨imeiLz_le bcd, fun _ => imeiDigit_of_lt_imeiLz, imeiDigit_imeiLz_ne, imeiNondec_iff bcd⟩

/-! ### The IMEI string -/

theorem imeiChar_of_le {bcd : BitVec 64} {k : Nat} (h : (imeiDigit bcd k).toNat ≤ 9) :
    imeiChar bcd k = Char.ofNat (48 + (imeiDigit bcd k).toNat) := by
  have hle : imeiDigit bcd k ≤ 9 := h
  have hlt : imeiDigit bcd k < 10 := Nat.lt_succ_of_le h
  rw [imeiChar, if_pos hle, hexDigit, if_pos hlt]

theorem imeiChars_length (bcd : BitVec 64) : (imeiOf bcd).chars.length = 16 - (imeiLz bcd).toNat := by
  simp [ImeiRegs.chars, imeiOf]

theorem imeiChars_getElem? {bcd : BitVec 64} {k : Nat} (h : k < 16 - (imeiLz bcd).toNat) :
    (imeiOf bcd).chars[k]? = some (imeiChar bcd ((imeiLz bcd).toNat + k)) := by
  have hk : (imeiLz bcd).toNat + k < 16 := by omega
  simp [ImeiRegs.chars, imeiOf, List.getElem?_range hk]

/-- Settles O36: character k is that of digit `imei_lz` + k, which is decimal when no digit exceeds 9. -/
theorem imeiStringIsTheDigitsAfterLeadingZeros : Obligations.ImeiStringIsTheDigitsAfterLeadingZeros := by
  refine fun bcd => ⟨imeiChars_length bcd, fun hdec k hk => ?_, String.toList_ofList⟩
  have hdigit : (imeiDigit bcd ((imeiLz bcd).toNat + k)).toNat ≤ 9 := by
    by_contra habove
    have hnondec : imeiNondec bcd = true := (imeiNondec_iff bcd).2 ⟨_, by omega, Nat.lt_of_not_le habove⟩
    exact Bool.false_ne_true (hdec.symm.trans hnondec)
  rw [imeiChars_getElem? hk, imeiChar_of_le hdigit]

/-! ### Degrees -/

theorem degrees_mul_coordScale (raw : BitVec 32) : degrees raw * 1800000 = (raw.toNat : Rat) :=
  div_mul_cancel₀ _ (by decide)

theorem degrees_nonneg (raw : BitVec 32) : 0 ≤ degrees raw := div_nonneg (Nat.cast_nonneg _) (Nat.cast_nonneg _)

/-- Settles O38: both coordinates are the quotient by the scale, which is not 0. -/
theorem degreesAreExactRationals : Obligations.DegreesAreExactRationals :=
  fun g => ⟨degrees_mul_coordScale g.lat, degrees_mul_coordScale g.lng, degrees_nonneg g.lat, degrees_nonneg g.lng⟩

end Sys2Proof.Machine
end

section
/-! SUPPORT. What a delivery of each message type leaves behind: its record, its payload and its response
(41_frame_parser R81 to R95, 42_response R100). -/

namespace Sys2Proof.Machine

/-! ### The record and the response of a message type -/

/-- The record of a delivery of message type `m` (41_frame_parser R81 to R91). -/
def decodedRecord (m : MsgType) (now : Nat) (buf : List Byte) : Record :=
  match m with
  | .login =>
    if 12 ≤ buf.length then { plainRecord .login now with pkind := .login, imei := imeiOf (imeiField buf) }
    else (plainRecord .login now).recordDecodeError
  | .gps =>
    if 21 ≤ buf.length then { plainRecord .gps now with pkind := .gps, gps := gpsFields buf }
    else (plainRecord .gps now).recordDecodeError
  | .unknown | .status | .alarm | .heartbeat => plainRecord m now

/-- The bytes that answer a delivery of message type `m` (42_response R100 to R104). -/
def responseBytes (m : MsgType) (buf : List Byte) : List Byte :=
  match m with
  | .login =>
    if 6 ≤ buf.length then ackLoginBytes (buf.getD (buf.length - 6) 0) (buf.getD (buf.length - 5) 0) else []
  | .heartbeat => hbAck
  | .unknown | .gps | .status | .alarm => []

theorem recordOfType_load (m : MsgType) (now : Nat) (buf : List Byte) :
    recordOfType m now (Memory.ofBytes 0 buf) buf.length = .ok (decodedRecord m now buf) := by
  cases m with
  | login => exact loginRecord_load now buf
  | gps => exact gpsRecord_load now buf
  | unknown | status | alarm | heartbeat => rfl

theorem buildResponse_load (m : MsgType) (buf : List Byte) :
    ∃ p, buildResponse m (Memory.ofBytes 0 buf) buf.length = .ok p ∧ p.Holds (responseBytes m buf) := by
  cases m with
  | login =>
    refine ⟨_, respondLogin_load buf, ?_⟩
    rw [responseBytes]
    split
    · exact ackLogin_holds _ _
    · exact noResponse_holds
  | heartbeat => exact ⟨_, rfl, ackHeartbeat_holds⟩
  | unknown | gps | status | alarm => exact ⟨_, rfl, noResponse_holds⟩

/-- A delivery that fits completes, with the record and the response of its type. -/
theorem typedDelivery_completes (m : MsgType) {s : State} {buf : List Byte} {now : Nat}
    (fits : deliveryFits s.cfg buf.length now = true) :
    ∃ t, toOutcome (typedDelivery m buf now s) = .next t ∧
      Delivered s t buf (decodedRecord m now buf) (decodedRecord m now buf).payload (responseBytes m buf) := by
  obtain ⟨p, hp, holds⟩ := buildResponse_load m buf
  exact typedDelivery_delivered fits (recordOfType_load m now buf) hp holds

/-! ### The types that decode no payload -/

/-- Settles O14: SHORT is a delivery of type Unknown. -/
theorem shortDeliveryIsUnknownAndUnanswered : Obligations.ShortDeliveryIsUnknownAndUnanswered := by
  intro s buf now hshort hmax hnow
  rw [exec_short hshort]
  exact typedDelivery_completes .unknown (deliveryFits_of_le hmax hnow)

/-- Settles O17: neither type decodes a payload or is answered. -/
theorem statusAndAlarmDecodeNothing : Obligations.StatusAndAlarmDecodeNothing := by
  intro s hdr rest now hmax hnow
  rw [exec_status, exec_alarm]
  have fits : deliveryFits s.cfg (rest.length + 4) now = true := deliveryFits_of_le hmax hnow
  exact ⟨typedDelivery_completes .status fits, typedDelivery_completes .alarm fits⟩

/-- Settles O18: the type decodes no payload, and its response does not depend on the delivery. -/
theorem heartbeatIsAnsweredByTheLiteral : Obligations.HeartbeatIsAnsweredByTheLiteral := by
  intro s hdr rest now hmax hnow
  rw [exec_heartbeat]
  exact typedDelivery_completes .heartbeat (deliveryFits_of_le hmax hnow)

theorem isRowProtocol_iff (t : Byte) :
    isRowProtocol t = true ↔ t ∈ ([0x01, 0x12, 0x13, 0x16, 0x26, 0x22] : List Byte) := by
  simp [isRowProtocol, or_assoc]

/-- Settles O19: a number without a row, and 0x22 without EXT22, is a delivery of type Unknown. -/
theorem unlistedProtocolIsUnknownAndUnanswered : Obligations.UnlistedProtocolIsUnknownAndUnanswered := by
  intro s hdr rest now hmax hnow
  have fits : deliveryFits s.cfg (rest.length + 4) now = true := deliveryFits_of_le hmax hnow
  refine ⟨fun p hp => ?_, fun hext => ?_⟩
  · rw [exec_unknown hdr rest now s (Bool.eq_false_iff.2 fun h => hp ((isRowProtocol_iff p).1 h))]
    exact typedDelivery_completes .unknown fits
  · rw [exec_gpsExt22, hext]
    exact typedDelivery_completes .unknown fits

/-! ### Login and Gps -/

theorem decodedRecord_login_of_le {buf : List Byte} (now : Nat) (h : 12 ≤ buf.length) :
    decodedRecord .login now buf = { plainRecord .login now with pkind := .login, imei := imeiOf (imeiField buf) } :=
  if_pos h

theorem decodedRecord_login_of_lt {buf : List Byte} (now : Nat) (h : buf.length < 12) :
    decodedRecord .login now buf = (plainRecord .login now).recordDecodeError :=
  if_neg (Nat.not_le_of_lt h)

theorem decodedRecord_gps_of_le {buf : List Byte} (now : Nat) (h : 21 ≤ buf.length) :
    decodedRecord .gps now buf = { plainRecord .gps now with pkind := .gps, gps := gpsFields buf } :=
  if_pos h

theorem decodedRecord_gps_of_lt {buf : List Byte} (now : Nat) (h : buf.length < 21) :
    decodedRecord .gps now buf = (plainRecord .gps now).recordDecodeError :=
  if_neg (Nat.not_le_of_lt h)

/-- Settles O15: the record turns on twelve bytes, the response on six; eight and two of them stand after offset 3. -/
theorem loginIsDecodedAndAcknowledged : Obligations.LoginIsDecodedAndAcknowledged := by
  intro s hdr rest now hmax hnow
  obtain ⟨t, ht, hd⟩ := typedDelivery_completes .login (buf := frameBytes hdr protoLogin rest)
    (deliveryFits_of_le hmax hnow)
  refine ⟨?_, fun hshort => ⟨t, ht, ?_⟩⟩
  · rintro b0 b1 b2 b3 b4 b5 b6 b7 more rfl
    refine ⟨t, ht, ?_⟩
    rw [decodedRecord_login_of_le now (by simp), responseBytes, if_pos (by simp)] at hd
    exact hd
  · rw [decodedRecord_login_of_lt now (by simp; omega), responseBytes] at hd
    have hserial : 6 ≤ (frameBytes hdr protoLogin rest).length ↔ 2 ≤ rest.length := by simp
    simp only [hserial] at hd
    exact hd

theorem gpsYear_eq_ofNat (y : Byte) : gpsYear y = BitVec.ofNat 12 (2000 + y.toNat) := by
  rw [BitVec.ofNat_add, BitVec.ofNat_toNat]
  rfl

/-- Settles O16: the record turns on 21 bytes, of which seventeen stand after offset 3. -/
theorem gpsIsDecodedAndUnanswered : Obligations.GpsIsDecodedAndUnanswered := by
  intro s hdr rest now hmax hnow
  obtain ⟨t, ht, hd⟩ := typedDelivery_completes .gps (buf := frameBytes hdr protoGps rest)
    (deliveryFits_of_le hmax hnow)
  refine ⟨?_, fun hshort => ⟨t, ht, ?_⟩⟩
  · rintro y mo d h mi se a0 a1 a2 a3 o0 o1 o2 o3 sp c0 c1 more rfl
    rw [decodedRecord_gps_of_le now (by simp)] at hd
    refine ⟨t, ht, ?_, ?_⟩
    · rw [← gpsYear_eq_ofNat]
      exact hd
    · rw [hd.record]
      exact gpsYear_toNat y
  · rw [decodedRecord_gps_of_lt now (by simp; omega)] at hd
    exact hd

/-! ### The type and the error of a record -/

theorem deliveryType_short {ext22 : Bool} {buf : List Byte} (h : buf.length < 4) :
    deliveryType ext22 buf = .unknown := by
  rw [deliveryType, List.getElem?_eq_none (by omega), Option.elim_none]

theorem deliveryType_of_getElem? {ext22 : Bool} {buf : List Byte} {t : Byte} (h : buf[3]? = some t) :
    deliveryType ext22 buf = classify ext22 t := by
  rw [deliveryType, h, Option.elim_some]

theorem decodedRecord_mtype (m : MsgType) (now : Nat) (buf : List Byte) : (decodedRecord m now buf).mtype = m :=
  mtype_of_recordOfType (recordOfType_load m now buf)

theorem decodedRecord_rxTime (m : MsgType) (now : Nat) (buf : List Byte) : (decodedRecord m now buf).rxTime = now :=
  rxTime_of_recordOfType (recordOfType_load m now buf)

/-- The failure conditions of 41_frame_parser R94. -/
theorem decodedRecord_decErr_iff (m : MsgType) (now : Nat) (buf : List Byte) :
    (decodedRecord m now buf).decErr = true ↔ m = .login ∧ buf.length ≤ 11 ∨ m = .gps ∧ buf.length ≤ 20 := by
  cases m with
  | login =>
    obtain h | h := Nat.lt_or_ge buf.length 12
    · simp [decodedRecord_login_of_lt now h, Record.recordDecodeError, Nat.le_of_lt_succ h]
    · simp [decodedRecord_login_of_le now h, plainRecord, Record.blank, Nat.lt_of_succ_le h]
  | gps =>
    obtain h | h := Nat.lt_or_ge buf.length 21
    · simp [decodedRecord_gps_of_lt now h, Record.recordDecodeError, Nat.le_of_lt_succ h]
    · simp [decodedRecord_gps_of_le now h, plainRecord, Record.blank, Nat.lt_of_succ_le h]
  | unknown | status | alarm | heartbeat => simp [decodedRecord, plainRecord, Record.blank]

/-! ### What a consistent record carries (10_state R14, R16, R17) -/

section
variable {c : Config} {r : Record} (hr : r.Inv c)
include hr

theorem Record.Inv.cause_of_error (he : r.decErr = true) :
    r.errCause = .structuralTooShort ∧ r.errCause.code = 1 := by
  have hcause : r.errCause = .structuralTooShort := by rw [hr.cause, he]; rfl
  exact ⟨hcause, by rw [hcause]; rfl⟩

theorem Record.Inv.cause_of_no_error (he : r.decErr = false) : r.errCause = .none ∧ r.errCause.code = 0 := by
  have hcause : r.errCause = .none := by rw [hr.cause, he]; rfl
  exact ⟨hcause, by rw [hcause]; rfl⟩

theorem Record.Inv.carries_login (hm : r.mtype = .login) (he : r.decErr = false) :
    r.pkind = .login ∧ r.payload = .login r.imei ∧ r.gps = .zero := by
  have hk := hr.payload_of_login hm he
  exact ⟨hk, Record.payload_of_login hk, hr.gps_zero (by simp [hk])⟩

theorem Record.Inv.carries_gps (hm : r.mtype = .gps) (he : r.decErr = false) :
    r.pkind = .gps ∧ r.payload = .gps r.gps ∧ r.imei = .zero := by
  have hk := hr.payload_of_gps hm he
  exact ⟨hk, Record.payload_of_gps hk, hr.imei_zero (by simp [hk])⟩

theorem Record.Inv.carries_none (h : r.decErr = true ∨ r.mtype ≠ .login ∧ r.mtype ≠ .gps) :
    r.pkind = .none ∧ r.payload = .none ∧ r.imei = .zero ∧ r.gps = .zero := by
  have hk : r.pkind = .none := by
    cases hk : r.pkind with
    | none => rfl
    | login => obtain ⟨hm, he⟩ := hr.login_payload hk; simp [hm, he] at h
    | gps => obtain ⟨hm, he⟩ := hr.gps_payload hk; simp [hm, he] at h
  exact ⟨hk, Record.payload_of_none hk, hr.imei_zero (by simp [hk]), hr.gps_zero (by simp [hk])⟩

end

/-! ### Every delivery (43_session R110) -/

/-- Settles O24: the delivery is one of the type of its byte 3; the length decides its error, and the consistency of
its record the rest. -/
theorem deliverCompletesWithRecordThenResponse : Obligations.DeliverCompletesWithRecordThenResponse := by
  intro s buf now hmax hnow
  obtain ⟨t, ht, hd⟩ := typedDelivery_completes (deliveryType s.cfg.ext22 buf) (deliveryFits_of_le hmax hnow)
  have hexec := exec_deliver_of_type s (decodeRecord_load s.cfg.ext22 now buf)
  have hinv := inv_recordOfType hnow (recordOfType_load (deliveryType s.cfg.ext22 buf) now buf)
  have hm := decodedRecord_mtype (deliveryType s.cfg.ext22 buf) now buf
  refine ⟨t, _, _, _, hexec.trans ht, hd, decodedRecord_rxTime _ now buf,
    fun hshort => hm.trans (deliveryType_short hshort), fun b hb => hm.trans (deliveryType_of_getElem? hb), ?_,
    hinv.cause_of_error, hinv.cause_of_no_error, fun ⟨hlogin, he⟩ => hinv.carries_login hlogin he,
    fun ⟨hgps, he⟩ => hinv.carries_gps hgps he, hinv.carries_none, ?_⟩
  · rw [hm]
    exact decodedRecord_decErr_iff _ now buf
  · rw [hm]
    cases deliveryType s.cfg.ext22 buf <;> rfl

/-! ### Independence of the state before (41_frame_parser R95) -/

/-- The time sample stands in `rx_time` and nowhere else in the record. -/
theorem decodedRecord_with_rxTime (m : MsgType) (now now' : Nat) (buf : List Byte) :
    { decodedRecord m now buf with rxTime := now' } = decodedRecord m now' buf := by
  cases m with
  | login => unfold decodedRecord; dsimp only; split <;> rfl
  | gps => unfold decodedRecord; dsimp only; split <;> rfl
  | unknown | status | alarm | heartbeat => rfl

theorem decodes_of_type {ext22 : Bool} {buf : List Byte} {p : RespBuf} (now : Nat)
    (hp : buildResponse (deliveryType ext22 buf) (Memory.ofBytes 0 buf) buf.length = .ok p) :
    Decodes ext22 buf now (decodedRecord (deliveryType ext22 buf) now buf) p where
  record := (decodeRecord_load ext22 now buf).trans (recordOfType_load _ now buf)
  response := by rw [decodedRecord_mtype]; exact hp

/-- Settles O29: the type and the response of a delivery are those of its bytes, and its record depends on the time
sample by `rx_time` only. -/
theorem deliveryResultIgnoresPriorState : Obligations.DeliveryResultIgnoresPriorState := by
  intro s₁ s₂ buf n₁ n₂ hcfg hmax hn₁ hn₂
  obtain ⟨p, hp, -⟩ := buildResponse_load (deliveryType s₁.cfg.ext22 buf) buf
  refine ⟨_, _, exec_deliver_of_decodes (deliveryFits_of_le hmax hn₁) (decodes_of_type n₁ hp),
    exec_deliver_of_decodes (hcfg ▸ deliveryFits_of_le hmax hn₂) (hcfg ▸ decodes_of_type n₂ hp), ?_⟩
  simp [decodedRecord_rxTime, decodedRecord_with_rxTime, hcfg]

end Sys2Proof.Machine
end

section
/-! SUPPORT. The two outbound rows: the response registers they leave, the checksum of their frames, and the
deliveries they run in (42_response R100 to R107). -/

namespace Sys2Proof.Machine

/-! ### The rows on their own (log entry 6) -/

theorem exec_ackLogin (h l : Byte) (s : State) : exec (.ackLogin h l) s = .next (s.setResponse (ackLogin h l)) := rfl

theorem exec_ackHeartbeat (s : State) : exec .ackHeartbeat s = .next (s.setResponse ackHeartbeat) := rfl

theorem sameButResponse_setResponse (s : State) (p : RespBuf) : SameButResponse s (s.setResponse p) :=
  ⟨rfl, rfl, fun _ => rfl, rfl, rfl, rfl, rfl, rfl⟩

/-- RB holds the response and 0x00 up to its tenth byte. -/
theorem RespBuf.Holds.rbRead_setResponse {p : RespBuf} {resp : List Byte} (hp : p.Holds resp) (s : State) {i : Nat}
    (hi : i < 10) : (s.setResponse p).rbRead i = (resp ++ List.replicate (10 - resp.length) 0x00)[i]? := by
  rw [State.rbRead_of_lt _ hi, State.setResponse_rb, hp.cells i hi, List.getD_eq_getElem?_getD]
  by_cases hlen : i < resp.length
  · rw [List.getElem?_append_left hlen, List.getElem?_eq_getElem hlen, Option.getD_some]
  · have hle : resp.length ≤ i := Nat.le_of_not_lt hlen
    rw [List.getElem?_append_right hle, List.getElem?_eq_none hle, Option.getD_none,
      List.getElem?_replicate_of_lt (by omega)]

/-- Settles O22: the registers hold the literal and one 0x00 after it. -/
theorem ackHeartbeatFormatsTheLiteral : Obligations.AckHeartbeatFormatsTheLiteral :=
  fun s => ⟨_, exec_ackHeartbeat s, sameButResponse_setResponse s _, rfl,
    fun _ hi => ackHeartbeat_holds.rbRead_setResponse s hi⟩

/-- Settles O21: the registers hold the ten bytes of the encoding, which fill RB. -/
theorem ackLoginFormatsTenBytes : Obligations.AckLoginFormatsTenBytes :=
  fun s h l => ⟨_, exec_ackLogin h l s, sameButResponse_setResponse s _, rfl,
    fun _ hi => (ackLogin_holds h l).rbRead_setResponse s hi⟩

/-! ### The checksum of the frames (R107) -/

theorem rbBytes_ackLogin (h l : Byte) : rbBytes (ackLogin h l).rb 10 = ackLoginBytes h l := (ackLogin_holds h l).sent

theorem rbBytes_ackHeartbeat : rbBytes ackHeartbeat.rb 9 = hbAck := ackHeartbeat_holds.sent

/-- The bytes 6 and 7 of ACK_LOGIN are the checksum of the bytes 2 to 5. -/
theorem checksum_ackLogin (h l : Byte) :
    rbCell (ackLogin h l).rb 6 ++ rbCell (ackLogin h l).rb 7 = crcOf [0x05, 0x01, h, l] := by
  rw [(ackLogin_holds h l).cells 6 (by decide), (ackLogin_holds h l).cells 7 (by decide)]
  exact highByte_append_lowByte _

theorem crc16_ackLoginBytes (h l : Byte) : crc16 (ackLoginBytes h l) 2 6 = some (crcOf [0x05, 0x01, h, l]) := rfl

/-- A message followed by its checksum has the checksum 0. -/
theorem crc16_ackLoginBytes_residue (h l : Byte) : crc16 (ackLoginBytes h l) 2 8 = some 0x0000 :=
  congrArg some (crcOfMessageWithItsChecksumIsZero [0x05, 0x01, h, l])

/-- The value R107 states for the literal's bytes 2 to 5, a finite check. -/
theorem crc16_hbAck : crc16 hbAck 2 6 = some 0xB657 := by decide +kernel

/-- Settles O23: ACK_LOGIN holds its checksum, whose residue is that of R77 (e); the literal's is another value. -/
theorem ackLoginChecksumVerifies : Obligations.AckLoginChecksumVerifies := by
  refine ⟨fun s h l => ⟨_, exec_ackLogin h l s, ?_, ?_⟩, fun s => ⟨_, exec_ackHeartbeat s, ?_⟩⟩
  · rw [State.setResponse_rb, rbBytes_ackLogin, checksum_ackLogin, crc16_ackLoginBytes]
  · rw [State.setResponse_rb, rbBytes_ackLogin, crc16_ackLoginBytes_residue]
  · rw [State.setResponse_rb, rbBytes_ackHeartbeat, crc16_hbAck, ackHeartbeat_holds.cells 6 (by decide),
      ackHeartbeat_holds.cells 7 (by decide)]
    decide

/-! ### The rows inside a delivery (log entry 4) -/

/-- The Login frame that ACK_LOGIN answers with these serial bytes. -/
def loginFrameOf (h l : Byte) : List Byte := frameBytes ⟨0x78, 0x78, 0x05⟩ protoLogin [h, l, 0x00, 0x00, 0x0D, 0x0A]

/-- The Heartbeat frame that ACK_HEARTBEAT answers. -/
def heartbeatFrame : List Byte := frameBytes ⟨0x78, 0x78, 0x05⟩ protoHeartbeat []

theorem eventFor_encode_ackLogin (h l : Byte) :
    eventFor (encode (.ackLogin h l)) = .deliver (loginFrameOf h l) 0 := by
  simp [encode, eventFor, loginFrameOf]

theorem eventFor_encode_ackHeartbeat : eventFor (encode .ackHeartbeat) = .deliver heartbeatFrame 0 := by
  simp [encode, eventFor, heartbeatFrame]

/-- The serial bytes of the frame stand six and five bytes before its end. -/
theorem buildResponse_loginFrameOf (h l : Byte) :
    buildResponse .login (Memory.ofBytes 0 (loginFrameOf h l)) (loginFrameOf h l).length = .ok (ackLogin h l) :=
  respondLogin_load (loginFrameOf h l)

/-- Parameters that are admissible admit every delivery of at most 21 bytes at time 0 (00_scope R5). -/
theorem deliveryFits_of_wf {c : Config} (hc : c.wf) {len : Nat} (hlen : len ≤ 21) : deliveryFits c len 0 = true :=
  deliveryFits_of_le (hlen.trans hc.1) (Nat.two_pow_pos _)

/-- A delivery leaves the response registers as the response to its type does. -/
theorem exec_decodeFrame_response {s : State} {buf : List Byte} {now : Nat} {p : RespBuf}
    (fits : deliveryFits s.cfg buf.length now = true)
    (hp : buildResponse (deliveryType s.cfg.ext22 buf) (Memory.ofBytes 0 buf) buf.length = .ok p) :
    ∃ t, exec (decodeFrame buf now) s = .next t ∧ t.rb = p.rb ∧ t.rlen = p.rlen :=
  ⟨_, exec_decodeFrame_of_decodes fits (decodes_of_type now hp), afterDelivery_rb .., afterDelivery_rlen ..⟩

/-- Settles O44, by the row: the response to the frame placed for it is the row's own. -/
theorem outboundRowsRunInsideADelivery : Obligations.OutboundRowsRunInsideADelivery := by
  rintro s i hc (rfl | ⟨h, l, rfl⟩)
  · rw [eventFor_encode_ackHeartbeat]
    obtain ⟨t, ht, hrb, hrlen⟩ := exec_decodeFrame_response (s := s) (buf := heartbeatFrame) (now := 0)
      (deliveryFits_of_wf hc (by decide)) rfl
    exact ⟨t, _, ht, exec_ackHeartbeat s, hrb, hrlen⟩
  · rw [eventFor_encode_ackLogin]
    obtain ⟨t, ht, hrb, hrlen⟩ := exec_decodeFrame_response (s := s) (now := 0)
      (deliveryFits_of_wf (len := (loginFrameOf h l).length) hc (by decide : 10 ≤ 21))
      (buildResponse_loginFrameOf h l)
    exact ⟨t, _, ht, exec_ackLogin h l s, hrb, hrlen⟩

end Sys2Proof.Machine
end

section
/-! SUPPORT. One step of an admissible session, what a whole session hands over, and the deliveries that are refused
(43_session). -/

namespace Sys2Proof.Machine

/-! ### Progress -/

/-- Settles O57: `admissible_step` without its clause on `crc`. -/
theorem admissibleStateStepsWithOneEventFewer : Obligations.AdmissibleStateStepsWithOneEventFewer := by
  intro s e es hs hp
  obtain ⟨t, hstep, ht, hpending, hcfg, -⟩ := admissible_step hs hp
  exact ⟨t, hstep, hpending, hcfg, ht⟩

/-! ### The outputs of a session (R112, 42_response R105) -/

/-- `new` holds exactly one record per DELIVER among `es`, and at most one response per DELIVER. -/
structure OutputsOf (es : List PortEvent) (new : List Observation) : Prop where
  records : (new.filter Observation.isRecord).length = (es.filter PortEvent.isDeliver).length
  responses : (new.filter Observation.isResponse).length ≤ (es.filter PortEvent.isDeliver).length

theorem outputsOf_nil : OutputsOf [] [] := ⟨rfl, Nat.le_refl 0⟩

theorem OutputsOf.append {es es' : List PortEvent} {new new' : List Observation} (h : OutputsOf es new)
    (h' : OutputsOf es' new') : OutputsOf (es ++ es') (new ++ new') where
  records := by simp only [List.filter_append, List.length_append, h.records, h'.records]
  responses := by
    simp only [List.filter_append, List.length_append]
    exact Nat.add_le_add h.responses h'.responses

/-- What a delivery emits: its record, and its response if it has one. -/
theorem afterDelivery_outputs (s : State) (buf : List Byte) (now : Nat) (r : Record) (p : RespBuf) :
    ∃ new, (afterDelivery s buf r p).observed = s.observed ++ new ∧ OutputsOf [.deliver buf now] new := by
  refine ⟨_, afterDelivery_observed s buf r p, ?_⟩
  split
  · exact ⟨rfl, Nat.zero_le 1⟩
  · exact ⟨rfl, Nat.le_refl 1⟩

/-- A step appends the outputs of the event it runs to the observations. -/
theorem step_outputs {s t : State} {e : PortEvent} {es : List PortEvent} (hp : s.pending = e :: es)
    (h : step s = .next t) : ∃ new, t.observed = s.observed ++ new ∧ OutputsOf [e] new := by
  cases stepsTo_of_step h with
  | idle hq => exact nomatch hp.symm.trans hq
  | deliver hq => cases hp.symm.trans hq; exact afterDelivery_outputs { s with pending := es } _ _ _ _
  | crcUpd hq => cases hp.symm.trans hq; exact ⟨_, rfl, rfl, Nat.le_refl 0⟩
  | crcClr hq => cases hp.symm.trans hq; exact ⟨_, rfl, rfl, Nat.le_refl 0⟩
  | reset hq => cases hp.symm.trans hq; exact ⟨[], (List.append_nil _).symm, rfl, Nat.le_refl 0⟩

theorem run_outputs {s : State} {es : List PortEvent} (hs : s.Admissible) (hp : s.pending = es) :
    ∃ t new, run es.length s = .next t ∧ t.observed = s.observed ++ new ∧ OutputsOf es new := by
  induction es generalizing s with
  | nil => exact ⟨s, [], rfl, (List.append_nil _).symm, outputsOf_nil⟩
  | cons e es ih =>
    obtain ⟨u, hstep, hu, hpending, -, -⟩ := admissible_step hs hp
    obtain ⟨first, hfirst, hout⟩ := step_outputs hp hstep
    obtain ⟨t, rest, hrun, hrest, hout'⟩ := ih hu hpending
    refine ⟨t, first ++ rest, (run_succ es.length hstep).trans hrun, ?_, hout.append hout'⟩
    rw [hrest, hfirst, List.append_assoc]

/-- Settles O56, by induction on the pending events: each step adds the outputs of its event. -/
theorem sessionHandsOverOneRecordPerDelivery : Obligations.SessionHandsOverOneRecordPerDelivery := by
  intro s hs
  obtain ⟨t, new, hrun, hobserved, hrecords, hresponses⟩ := run_outputs hs rfl
  exact ⟨t, new, hrun, hobserved, hrecords, hresponses⟩

/-! ### Refused deliveries (log entry 9) -/

/-- A delivery that fails the check is refused for the reason the check gives, by DELIVER and by its row. -/
theorem exec_delivery_refused {s : State} {buf : List Byte} {now : Nat} {why : Refusal}
    (h : checkDelivery s.cfg buf.length now = .error why) :
    exec (.deliver buf now) s = .refused why ∧ exec (decodeFrame buf now) s = .refused why := by
  have hdeliver : exec (.deliver buf now) s = .refused why := by
    show toOutcome (delivery buf now _ _ s) = .refused why
    unfold delivery
    rw [h]
    rfl
  exact ⟨hdeliver, (deliverDispatchesToItsRow s buf now).symm.trans hdeliver⟩

theorem checkDelivery_sampleTooWide {c : Config} {len now : Nat} (hlen : len ≤ c.maxLen) (hnow : 2 ^ c.timeW ≤ now) :
    checkDelivery c len now = .error .sampleTooWide := by
  rw [checkDelivery, if_neg (Nat.not_lt_of_le hlen), if_pos hnow]

/-- Settles O27: the delivery passes the check of its length and fails that of its sample. -/
theorem timeSampleBeyondItsWidthIsRefused : Obligations.TimeSampleBeyondItsWidthIsRefused :=
  fun _ _ _ hlen hnow => exec_delivery_refused (checkDelivery_sampleTooWide hlen hnow)

end Sys2Proof.Machine
end

section
/-! SUPPORT. The idle block (60_exceptions R133). -/

namespace Sys2Proof.Machine

/-- Settles O46, by `step_nil`, the law of a step on the empty queue. -/
theorem stepWithoutEventChangesNothing : Obligations.StepWithoutEventChangesNothing :=
  fun _ h => step_nil h

end Sys2Proof.Machine
end

section
/-! SUPPORT. RESET, the capacity of the frame buffer, and sessions that run to their end (70_reset_and_hazards). -/

namespace Sys2Proof.Machine

/-! ### RESET (R140) -/

theorem exec_reset (s : State) : exec .reset s = .next (State.resetOf s.cfg s.pending s.observed) := rfl

theorem State.rbRead_congr {s t : State} (h : s.rb = t.rb) (off : Nat) : s.rbRead off = t.rbRead off := by
  rw [State.rbRead, State.rbRead, h]

/-- Settles O2: RESET writes the reset registers, and a delivery's result does not depend on the state before it. -/
theorem resetEventRestoresEveryRegister : Obligations.ResetEventRestoresEveryRegister := by
  refine fun s => ⟨_, exec_reset s, rfl, rfl, rfl, rfl, rfl, fbRead_resetOf _ _ _,
    (responseInv_resetOf _ _ _).cleared rfl, rfl, rfl, rfl, fun buf now hmax hnow => ?_⟩
  obtain ⟨u, v, hu, hv, hrx, -, hrecord, -, -, -, hrb, hrlen⟩ :=
    deliveryResultIgnoresPriorState s (State.resetOf s.cfg s.pending s.observed) buf now now rfl hmax hnow hnow
  -- both deliveries have one time sample, so replacing `rx_time` by it changes nothing
  subst hrx
  exact ⟨u, v, hu, hv, hrecord, hrlen, State.rbRead_congr hrb⟩

/-! ### The capacity of the frame buffer (R147) -/

theorem checkDelivery_deliveryTooLong {c : Config} {len : Nat} (now : Nat) (h : c.maxLen < len) :
    checkDelivery c len now = .error .deliveryTooLong := if_pos h

/-- Settles O26: a longer delivery fails the check of its length; one of exactly MAXLEN bytes passes it. -/
theorem deliveryBeyondCapacityIsRefused : Obligations.DeliveryBeyondCapacityIsRefused := by
  refine fun s buf now => ⟨fun hlong => exec_delivery_refused (checkDelivery_deliveryTooLong now hlong),
    fun hfull hnow => ?_⟩
  obtain ⟨t, -, -, -, ht, -⟩ := deliverCompletesWithRecordThenResponse s buf now hfull.ge hnow
  exact ⟨t, ht⟩

/-! ### Sessions (R150) -/

theorem run_empties_pending {s : State} {es : List PortEvent} (hs : s.Admissible) (hp : s.pending = es) :
    ∃ t, run es.length s = .next t ∧ t.pending = [] ∧ t.cfg = s.cfg := by
  induction es generalizing s with
  | nil => exact ⟨s, rfl, hp, rfl⟩
  | cons e es ih =>
    obtain ⟨u, hstep, hpending, hcfg, hu⟩ := admissibleStateStepsWithOneEventFewer s e es hs hp
    obtain ⟨t, hrun, hempty, hcfg'⟩ := ih hu hpending
    exact ⟨t, (run_succ es.length hstep).trans hrun, hempty, hcfg'.trans hcfg⟩

/-- Settles O55, by induction on the pending events: each step runs one and leaves an admissible state. -/
theorem admissibleSessionRunsToItsEnd : Obligations.AdmissibleSessionRunsToItsEnd :=
  fun _ hs => run_empties_pending hs rfl

end Sys2Proof.Machine
end

section
/-! SUPPORT. The words of the opcode table (log entry 4), and the rows outside their condition (log entry 10). -/

namespace Sys2Proof.Machine

/-! ### Words of the opcode table -/

/-- A word that stands for the encoding of a row decodes to that row. -/
theorem decodeTableWord_of_encode {nbits w : Nat} {i : Instr} (hwf : i.wf = true) (hrow : i.classified = i)
    (h : tableWire nbits w = encode i) : decodeTableWord nbits w = some i := by
  rw [decodeTableWord, h, decodeOfEncodeIsTheInstruction i hwf, hrow]

/-- Settles O43: each word stands for the encoding of its row, a finite check of its bytes. -/
theorem tableWordsDecodeToTheirRows : Obligations.TableWordsDecodeToTheirRows := by
  refine ⟨?_, ?_, ?_, ?_, ?_, ?_, ?_, ?_, ?_, ?_, ?_⟩
  all_goals exact decodeTableWord_of_encode rfl rfl (by decide +kernel)

/-- Only words of 72 and 80 bits are outbound frames. -/
theorem tableWire_eq_event {nbits : Nat} (w : Nat) (h72 : nbits ≠ 72) (h80 : nbits ≠ 80) :
    ∃ e, tableWire nbits w = .event e := by
  unfold tableWire
  split
  · exact ⟨_, rfl⟩
  · exact ⟨_, if_neg (not_or.2 ⟨h72, h80⟩)⟩

theorem decodeTableWord_of_event {nbits w : Nat} {e : PortEvent} (h : tableWire nbits w = .event e) :
    decodeTableWord nbits w = some (decodeEvent e) := by
  rw [decodeTableWord, h, decode]

theorem step_withFetchWord (s : State) (nbits w : Nat) :
    step (s.withFetchWord nbits w) = exec (decodeEvent (eventFor (tableWire nbits w))) s :=
  step_cons rfl

/-- Settles O47: the word is an event, which the step decodes as the table does. -/
theorem placedWordIsTheNextInstruction : Obligations.PlacedWordIsTheNextInstruction := by
  intro s nbits w i h72 h80 hi
  obtain ⟨e, he⟩ := tableWire_eq_event w h72 h80
  rw [decodeTableWord_of_event he] at hi
  rw [step_withFetchWord, he, eventFor, Option.some.inj hi]

/-! ### Rows outside their condition -/

/-- Everything the row of a delivery can answer: one of the two refusals of `checkDelivery`, or a next state. -/
theorem exec_decodeFrame_cases (s : State) (buf : List Byte) (now : Nat) :
    exec (decodeFrame buf now) s = .refused .deliveryTooLong ∨
      exec (decodeFrame buf now) s = .refused .sampleTooWide ∨ ∃ t, exec (decodeFrame buf now) s = .next t := by
  by_cases hlen : buf.length ≤ s.cfg.maxLen
  · by_cases hnow : now < 2 ^ s.cfg.timeW
    · obtain ⟨t, -, -, -, ht, -⟩ := deliverCompletesWithRecordThenResponse s buf now hlen hnow
      exact .inr (.inr ⟨t, (deliverDispatchesToItsRow s buf now).symm.trans ht⟩)
    · exact .inr (.inl (timeSampleBeyondItsWidthIsRefused s buf now hlen (Nat.le_of_not_lt hnow)).2)
  · exact .inl ((deliveryBeyondCapacityIsRefused s buf now).1 (Nat.lt_of_not_le hlen)).2

/-- Settles O28: the two rows check their condition first, and none of a delivery's answers is that refusal. -/
theorem rowOutsideItsConditionIsRefused : Obligations.RowOutsideItsConditionIsRefused := by
  refine ⟨fun s buf now h => ?_, fun s hdr t rest now ht => ?_, fun s buf now => ?_⟩
  · exact exec_short_refused (Nat.not_lt_of_le h) now s
  · exact exec_unknown_refused hdr rest now s ((isRowProtocol_iff t).2 ht)
  · obtain h | h | ⟨t, h⟩ := exec_decodeFrame_cases s buf now
    all_goals rw [h]; nofun

end Sys2Proof.Machine
end
